-- ==== Sys2Proof/Word.lean ====
section
/-! DEFINITION. The bit-vector types of PNGME-CRCT. All values are unsigned (00_scope.md R7). -/

namespace Sys2Proof

/-- An 8-bit byte, the width the CRC unit consumes (00_scope.md R5). -/
abbrev Byte := BitVec 8

/-- A 32-bit value: the running value, a type code, the checksum (00_scope.md R5). -/
abbrev Word := BitVec 32

/-- A 36-bit command word `cmd[35:0]` (30_encoding.md R40). -/
abbrev CommandWord := BitVec 36

end Sys2Proof
end

