-- ==== Sys2Proof/Syntax.lean ====
section
/-! DEFINITION. The commands of spec/opcode_table.json, one constructor a row, and the abstract syntax of an
assembly line (30_encoding.md R46, R47). -/

namespace Sys2Proof

/-- One constructor per row of spec/opcode_table.json. An operand is kept where the decoder of 30_encoding.md R44
keeps it; ignored bits (R41) are no part of an instruction. -/
inductive Instr where
  /-- `NOP` (42_misc.md R90). -/
  | nop
  /-- `CRC_INIT` (40_crc.md R59). -/
  | crcInit
  /-- `CRC_BYTE b` (40_crc.md R60). -/
  | crcByte (b : Byte)
  /-- `CRC_TYPE` (40_crc.md R62). -/
  | crcType
  /-- `TYPE_LOAD w` (41_type.md R78). -/
  | typeLoad (w : Word)
  /-- `TYPE_CLR` (41_type.md R81). -/
  | typeClr
  /-- Reserved opcode 0x6 (30_encoding.md R43), as are the nine after it. -/
  | reserved6
  | reserved7
  | reserved8
  | reserved9
  | reservedA
  | reservedB
  | reservedC
  | reservedD
  | reservedE
  | reservedF
deriving DecidableEq, Repr

/-- The words that open an assembly line: the six mnemonics of 30_encoding.md R42 and the three pseudo-commands of
R47. A reserved opcode has no mnemonic. -/
inductive Mnemonic where
  | nop
  | crcInit
  | crcByte
  | crcType
  | typeLoad
  | typeClr
  | crcBytes
  | checksum
  | chunkCrc
deriving DecidableEq, Repr

/-- An operand as written (30_encoding.md R46). -/
inductive AsmOperand where
  /-- A number such as `0x61` or `97`. -/
  | number (n : Nat)
  /-- A one-character literal in single quotes. -/
  | char (c : Char)
  /-- A literal in double quotes. -/
  | text (cs : List Char)
deriving DecidableEq, Repr

/-- One line of assembly: a mnemonic and what stands after it. -/
structure AsmLine where
  mnemonic : Mnemonic
  operands : List AsmOperand
deriving DecidableEq, Repr

end Sys2Proof
end

