-- ==== Sys2Proof/Decode.lean ====
section
/-! DEFINITION. The total decoder of 30_encoding.md R44 and the encoder that writes canonical words (R41, R42). -/

namespace Sys2Proof

/-- The field `op = cmd[35:32]` (30_encoding.md R40). -/
def opcodeField (cw : CommandWord) : BitVec 4 := cw.extractLsb' 32 4

/-- The field `data = cmd[31:0]` (30_encoding.md R40). -/
def dataField (cw : CommandWord) : Word := cw.extractLsb' 0 32

/-- The operand `b = cmd[7:0]` of `CRC_BYTE` (30_encoding.md R41). -/
def byteField (cw : CommandWord) : Byte := cw.extractLsb' 0 8

/-- The `match` of 30_encoding.md R44 on `cmd[35:32]`, given the two operands a word carries. The reserved opcodes
0x6..0xF (R43) each give their own row of the table; the last arm is reached by 0xF alone. -/
def decodeFields (op : BitVec 4) (b : Byte) (w : Word) : Instr :=
  match op.toNat with
  | 0x0 => .nop
  | 0x1 => .crcInit
  | 0x2 => .crcByte b
  | 0x3 => .crcType
  | 0x4 => .typeLoad w
  | 0x5 => .typeClr
  | 0x6 => .reserved6
  | 0x7 => .reserved7
  | 0x8 => .reserved8
  | 0x9 => .reserved9
  | 0xA => .reservedA
  | 0xB => .reservedB
  | 0xC => .reservedC
  | 0xD => .reservedD
  | 0xE => .reservedE
  | _ => .reservedF

/-- `decode` of 30_encoding.md R44, total on every command word. -/
def decode (cw : CommandWord) : Instr := decodeFields (opcodeField cw) (byteField cw) (dataField cw)

/-- The opcode of each row (30_encoding.md R42, R43). -/
def Instr.opcode : Instr → BitVec 4
  | .nop => 0x0
  | .crcInit => 0x1
  | .crcByte _ => 0x2
  | .crcType => 0x3
  | .typeLoad _ => 0x4
  | .typeClr => 0x5
  | .reserved6 => 0x6
  | .reserved7 => 0x7
  | .reserved8 => 0x8
  | .reserved9 => 0x9
  | .reservedA => 0xA
  | .reservedB => 0xB
  | .reservedC => 0xC
  | .reservedD => 0xD
  | .reservedE => 0xE
  | .reservedF => 0xF

/-- The canonical `data` of each row: the operand at its place, every ignored bit 0 (30_encoding.md R41). -/
def Instr.canonicalData : Instr → Word
  | .crcByte b => b.setWidth 32
  | .typeLoad w => w
  | .nop | .crcInit | .crcType | .typeClr => 0
  | .reserved6 | .reserved7 | .reserved8 | .reserved9 | .reservedA => 0
  | .reservedB | .reservedC | .reservedD | .reservedE | .reservedF => 0

/-- The word with `op` in bits 35..32 and `data` in bits 31..0 (30_encoding.md R40). -/
def commandWord (op : BitVec 4) (data : Word) : CommandWord := op ++ data

/-- The canonical word of an instruction (30_encoding.md R41, R42). -/
def encode (i : Instr) : CommandWord := commandWord i.opcode i.canonicalData

/-- One of the ten reserved commands (30_encoding.md R43). -/
def Instr.isReserved (i : Instr) : Bool := decide (6 ≤ i.opcode.toNat)

/-- The command word an opcode-table number stands for: its low `nbits` bits, when they fit in the 36 of a command
word. A command word is no sequence of bytes (30_encoding.md R40), so there is no byte order to undo (log 9). -/
def tableWord (nbits w : Nat) : Option CommandWord :=
  let v := w % 2 ^ nbits
  if v < 2 ^ 36 then some (BitVec.ofNat 36 v) else none

/-- The instruction the decoder reads from an opcode-table word; `none` for a number wider than a command word. -/
def decodeTableWord (nbits w : Nat) : Option Instr := (tableWord nbits w).map decode

end Sys2Proof
end

