-- ==== Sys2Proof/Machine/Operands.lean ====
section
/-! DEFINITION. The operand forms: the four byte positions of a 32-bit type word (00_scope.md R7, 20_memory.md R32).
The two operands a command word carries are cut out by the decoder (30_encoding.md R41). -/

namespace Sys2Proof.Machine

/-- Byte position 0, bits 31..24. -/
def bytePos0 (w : Word) : Byte := w.extractLsb' 24 8

/-- Byte position 1, bits 23..16. -/
def bytePos1 (w : Word) : Byte := w.extractLsb' 16 8

/-- Byte position 2, bits 15..8. -/
def bytePos2 (w : Word) : Byte := w.extractLsb' 8 8

/-- Byte position 3, bits 7..0. -/
def bytePos3 (w : Word) : Byte := w.extractLsb' 0 8

/-- The four bytes in the order `CRC_TYPE` feeds them: "position 0 first, then 1, 2, 3" (20_memory.md R34). -/
def typeBytes (w : Word) : List Byte := [bytePos0 w, bytePos1 w, bytePos2 w, bytePos3 w]

/-- The word with the four bytes at positions 0 to 3, most significant first (20_memory.md R32). -/
def wordOfBytes (b0 b1 b2 b3 : Byte) : Word := b0 ++ b1 ++ b2 ++ b3

end Sys2Proof.Machine
end

