-- ==== Sys2Proof/Config.lean ====
section
/-! DEFINITION. The two implementation parameters of 00_scope.md R6. `step` takes neither: "A model takes neither
parameter: it models the function." They are here so that the statements that say so can be written. -/

namespace Sys2Proof

/-- The parameter IMPL of 00_scope.md R6: how the byte update is built. -/
inductive Impl where
  /-- A 256-entry table look-up (40_crc.md R55). -/
  | table
  /-- Eight 1-bit steps (40_crc.md R52). -/
  | bitSerial
deriving DecidableEq, Repr

/-- The LAT_BYTE the spec expects of each style (70_reset_and_hazards.md R131: "expectations ... not measurements").
PRESUMED by the spec itself, log 11: nothing in `step` depends on it. -/
def Impl.expectedLatByte : Impl → Nat
  | .table => 1
  | .bitSerial => 8

end Sys2Proof
end

