-- ==== Sys2Proof/Machine/Checksum.lean ====
section
/-! DEFINITION. The functions of the CRC unit (40_crc.md R50 to R57). -/

namespace Sys2Proof.Machine

/-- `POLY` (40_crc.md R50). -/
def crcPoly : Word := 0xEDB88320

/-- `INIT` (40_crc.md R50). -/
def crcInitValue : Word := 0xFFFFFFFF

/-- `XOROUT` (40_crc.md R50). -/
def crcXorOut : Word := 0xFFFFFFFF

/-- The 1-bit step of 40_crc.md R52: the data bit meets bit 0, the register shifts right, and a feedback of 1 brings
`POLY` in. -/
def bitstep (c : Word) (d : Bool) : Word :=
  let s := c >>> 1
  if (c.getLsbD 0 ^^ d) = true then s ^^^ crcPoly else s

/-- The bits of a byte in the order they are consumed: bit 0 first, bit 7 last (20_memory.md R34). -/
def byteBits (b : Byte) : List Bool :=
  [b.getLsbD 0, b.getLsbD 1, b.getLsbD 2, b.getLsbD 3, b.getLsbD 4, b.getLsbD 5, b.getLsbD 6, b.getLsbD 7]

/-- The byte update of 40_crc.md R53, the normative definition: eight 1-bit steps. -/
def upd (c : Word) (b : Byte) : Word := (byteBits b).foldl bitstep c

/-- `shift8` of 40_crc.md R53: eight steps `bitstep(., 0)`. -/
def shift8 (v : Word) : Word := (List.replicate 8 false).foldl bitstep v

/-- Entry `i` of the constant table `T`: its generating formula, which is the rule (40_crc.md R54). -/
def crcTable (i : Byte) : Word := shift8 (i.setWidth 32)

/-- `upd_tab` of 40_crc.md R55. -/
def updTab (c : Word) (b : Byte) : Word := crcTable ((c ^^^ b.setWidth 32).setWidth 8) ^^^ (c >>> 8)

/-- The byte update as a given style of implementation computes it (00_scope.md R6): from the listed table, or bit by
bit. The meanings use `upd`. -/
def updBy (impl : Impl) (c : Word) (b : Byte) : Word :=
  match impl with
  | .table => updRom c b
  | .bitSerial => upd c b

/-- `run` of 40_crc.md R57. -/
def crcRun (c : Word) : List Byte → Word
  | [] => c
  | b :: rest => crcRun (upd c b) rest

/-- `checksum` of 40_crc.md R57. -/
def checksum (bs : List Byte) : Word := ~~~ crcRun crcInitValue bs

/-- `run` as a given style of implementation computes it (40_crc.md R57, R66 (d)). -/
def crcRunBy (impl : Impl) (c : Word) : List Byte → Word
  | [] => c
  | b :: rest => crcRunBy impl (updBy impl c b) rest

/-- `checksum` as a given style of implementation computes it (40_crc.md R57, R66 (d)). -/
def checksumBy (impl : Impl) (bs : List Byte) : Word := ~~~ crcRunBy impl crcInitValue bs

end Sys2Proof.Machine
end

