-- ==== Sys2Proof/Machine/State.lean ====
section
/-! DEFINITION. The architectural state (10_state.md R10 to R16, R25), the input port's samples, and the reasons a step
can stop. -/

namespace Sys2Proof.Machine

/-- The values of `type_st` (10_state.md R13). 0b11 is not one: "build the state type so that it cannot be expressed
(three constructors)" (93_implementation_defined.md U5, log 4). -/
inductive TypeSt where
  /-- 0b00: no type code is held. -/
  | empty
  /-- 0b01: the last `TYPE_LOAD` succeeded. -/
  | valid
  /-- 0b10: the last `TYPE_LOAD` failed with InvalidChunkType. -/
  | invalid
deriving DecidableEq, Repr

/-- What the host drives at one rising clock edge (10_state.md R21). -/
structure PortSample where
  rst : Bool
  cmd_valid : Bool
  cmd : CommandWord
deriving DecidableEq, Repr

/-- `S` of 42_misc.md R91: the four registers of 10_state.md R10 under the spec's names, and nothing else. It holds no
command and no count of commands (R27). -/
structure Regs where
  crc_r : Word
  type_r : Word
  type_st : TypeSt
  err_cmd : Bool
deriving DecidableEq, Repr

/-- `S`, and beside it `port`: the samples the host presents at the coming edges, the next one first. `port` is no part
of the spec's state and no field of `Regs`; it is the model's own (DESIGN CHOICE, log 1), because `step` takes a state
alone. The spec's command sequence is an input (10_state.md R27), as it is of `runs` in Machine/Port.lean. -/
structure State extends Regs where
  port : List PortSample
deriving DecidableEq, Repr

/-- The reasons a step ends in a fault: none. `step` "never fails to produce a next state" (42_misc.md R91), and both
error conditions of 60_exceptions.md R100 are register writes (log 8). Safe: nothing raises one. -/
inductive Fault where
deriving DecidableEq, Repr

/-- The reasons a step is refused. -/
inductive Refusal where
  /-- Raised by an arm of `exec` whose instruction has no meaning yet; no arm does. Safe: the run stops. -/
  | notModelled (mnemonic : String)
  /-- Raised by `clockEdge` (Machine/Clock.lean) alone, for a host that changes or withdraws a word the block has not yet
  accepted: `refuse` of 93_implementation_defined.md U10 (log 15). `exec` and `step` never raise it. Safe: the run stops. -/
  | wordNotHeld
deriving DecidableEq, Repr

/-- `S0` of 10_state.md R25. -/
def Regs.reset : Regs where
  crc_r := 0xFFFFFFFF
  type_r := 0x00000000
  type_st := .empty
  err_cmd := false

/-- `S0`, with nothing presented at the port (log 1). -/
def State.reset : State where
  toRegs := Regs.reset
  port := []

end Sys2Proof.Machine
end

