-- ==== Sys2Proof/Machine/Ops.lean ====
section
/-! DEFINITION. The named operations on the registers, the effect of each of the two errors, and reset. There is no
memory to operate on (20_memory.md R30). -/

namespace Sys2Proof.Machine

/-- `crc_r <- v`. -/
def State.writeCrc (s : State) (v : Word) : State := { s with crc_r := v }

/-- `type_r <- w`, `type_st <- t`: the two are only ever written together (10_state.md R15). -/
def State.writeType (s : State) (w : Word) (t : TypeSt) : State := { s with type_r := w, type_st := t }

/-- Feed bytes into the running value, in order (40_crc.md R57, R60, R62). -/
def State.feed (s : State) (bs : List Byte) : State := s.writeCrc (crcRun s.crc_r bs)

/-- The whole effect of IllegalCommand: `err_cmd <- 1` and nothing else (60_exceptions.md R102, R108). -/
def State.raiseIllegalCommand (s : State) : State := { s with err_cmd := true }

/-- The whole effect of InvalidChunkType: `type_r <- 0`, `type_st <- INVALID` (60_exceptions.md R101, R108). -/
def State.raiseInvalidChunkType (s : State) : State := s.writeType 0x00000000 .invalid

/-- The samples still to come. -/
def State.withPort (s : State) (p : List PortSample) : State := { s with port := p }

/-- A reset edge: the registers become `S0` whatever they were (70_reset_and_hazards.md R120); what the host presents
afterwards is the host's. -/
def State.resetRegisters (s : State) : State := { s with toRegs := Regs.reset }

end Sys2Proof.Machine
end

