-- ==== Sys2Proof/Machine/CrcUnit.lean ====
section
/-! DEFINITION. The commands of the CRC unit (40_crc.md R59, R60, R62). -/

namespace Sys2Proof.Machine

/-- `CRC_INIT`: `crc_r <- INIT` (40_crc.md R59). -/
def execCrcInit (s : State) : Host.Outcome State Fault Refusal := .next (s.writeCrc crcInitValue)

/-- `CRC_BYTE b`: `crc_r <- upd(crc_r, b)` (40_crc.md R60). -/
def execCrcByte (b : Byte) (s : State) : Host.Outcome State Fault Refusal := .next (s.writeCrc (upd s.crc_r b))

/-- `CRC_TYPE`: feeds the held code's four bytes, position 0 first; with no valid code held it raises IllegalCommand and
leaves `crc_r` alone (40_crc.md R62). -/
def execCrcType (s : State) : Host.Outcome State Fault Refusal :=
  if s.type_st = .valid then .next (s.feed (typeBytes s.type_r)) else .next s.raiseIllegalCommand

end Sys2Proof.Machine
end

