-- ==== Sys2Proof/Machine/Misc.lean ====
section
/-! DEFINITION. `NOP` (42_misc.md R90) and the ten reserved commands (30_encoding.md R43). -/

namespace Sys2Proof.Machine

/-- `NOP`: every register keeps its value (42_misc.md R90). -/
def execNop (s : State) : Host.Outcome State Fault Refusal := .next s

/-- Opcode 0x6: IllegalCommand (30_encoding.md R43, 60_exceptions.md R102). -/
def execReserved6 (s : State) : Host.Outcome State Fault Refusal := .next s.raiseIllegalCommand

/-- Opcode 0x7, as `execReserved6`. -/
def execReserved7 (s : State) : Host.Outcome State Fault Refusal := .next s.raiseIllegalCommand

/-- Opcode 0x8, as `execReserved6`. -/
def execReserved8 (s : State) : Host.Outcome State Fault Refusal := .next s.raiseIllegalCommand

/-- Opcode 0x9, as `execReserved6`. -/
def execReserved9 (s : State) : Host.Outcome State Fault Refusal := .next s.raiseIllegalCommand

/-- Opcode 0xA, as `execReserved6`. -/
def execReservedA (s : State) : Host.Outcome State Fault Refusal := .next s.raiseIllegalCommand

/-- Opcode 0xB, as `execReserved6`. -/
def execReservedB (s : State) : Host.Outcome State Fault Refusal := .next s.raiseIllegalCommand

/-- Opcode 0xC, as `execReserved6`. -/
def execReservedC (s : State) : Host.Outcome State Fault Refusal := .next s.raiseIllegalCommand

/-- Opcode 0xD, as `execReserved6`. -/
def execReservedD (s : State) : Host.Outcome State Fault Refusal := .next s.raiseIllegalCommand

/-- Opcode 0xE, as `execReserved6`. -/
def execReservedE (s : State) : Host.Outcome State Fault Refusal := .next s.raiseIllegalCommand

/-- Opcode 0xF, as `execReserved6`. -/
def execReservedF (s : State) : Host.Outcome State Fault Refusal := .next s.raiseIllegalCommand

end Sys2Proof.Machine
end

