-- ==== Sys2Proof/Machine/Flags.lean ====
section
/-! DEFINITION. The validity test, the four flags and the outputs (41_type.md R70 to R76; 10_state.md R17 to R20;
42_misc.md R92). The flags are computed from `type_r`, "not stored separately" (41_type.md R77). -/

namespace Sys2Proof.Machine

/-- `is_letter` (41_type.md R70), unsigned comparison. -/
def isLetter (b : Byte) : Bool :=
  (decide (0x41#8 ≤ b) && decide (b ≤ 0x5A#8)) || (decide (0x61#8 ≤ b) && decide (b ≤ 0x7A#8))

/-- `valid_type` (41_type.md R71): all four bytes are letters. -/
def validType (w : Word) : Bool := (typeBytes w).all isLetter

/-- `critical` (41_type.md R72): bit 5 of byte position 0 is 0. -/
def critical (w : Word) : Bool := !w.getLsbD 29

/-- `public` (41_type.md R73): bit 5 of byte position 1 is 0. -/
def publicBit (w : Word) : Bool := !w.getLsbD 21

/-- `reserved_bit_valid` (41_type.md R74): bit 5 of byte position 2 is 0. -/
def reservedBitValid (w : Word) : Bool := !w.getLsbD 13

/-- `safe_to_copy` (41_type.md R75): bit 5 of byte position 3 is 1. -/
def safeToCopy (w : Word) : Bool := w.getLsbD 5

/-- What a valid type code says (41_type.md R76). -/
structure TypeCode where
  raw : Word
  critical : Bool
  isPublic : Bool
  reservedBitValid : Bool
  safeToCopy : Bool
deriving DecidableEq, Repr

/-- The four predicates of a word beside the word (41_type.md R76). -/
def typeCode (w : Word) : TypeCode where
  raw := w
  critical := critical w
  isPublic := publicBit w
  reservedBitValid := reservedBitValid w
  safeToCopy := safeToCopy w

/-- `TypeDecode` (41_type.md R76); `none` is `Err InvalidChunkType`. -/
def typeDecode (w : Word) : Option TypeCode := if validType w = true then some (typeCode w) else none

/-- The number each tag is driven with (10_state.md R13, R20). -/
def TypeSt.code : TypeSt → BitVec 2
  | .empty => 0b00
  | .valid => 0b01
  | .invalid => 0b10

/-- The output ports of 10_state.md R21, `cmd_ready` apart (Machine/Clock.lean). -/
structure Outputs where
  crc_out : Word
  type_out : Word
  type_st : BitVec 2
  is_critical : Bool
  is_public : Bool
  is_reserved_bit_valid : Bool
  is_safe_to_copy : Bool
  err_cmd : Bool
deriving DecidableEq, Repr

/-- `type_st == VALID` as the hardware's gate `v` (10_state.md R19). -/
def Regs.holdsType (s : Regs) : Bool := decide (s.type_st = .valid)

/-- `crc_out` (10_state.md R17). -/
def Regs.crcOut (s : Regs) : Word := ~~~ s.crc_r

/-- `type_out` (10_state.md R18). -/
def Regs.typeOut (s : Regs) : Word := if s.type_st = .valid then s.type_r else 0

/-- `out(S)` (42_misc.md R92): the values on the ports, 0 on the flags and `type_out` when no valid code is held. -/
def Regs.out (s : Regs) : Outputs where
  crc_out := s.crcOut
  type_out := s.typeOut
  type_st := s.type_st.code
  is_critical := s.holdsType && critical s.type_r
  is_public := s.holdsType && publicBit s.type_r
  is_reserved_bit_valid := s.holdsType && reservedBitValid s.type_r
  is_safe_to_copy := s.holdsType && safeToCopy s.type_r
  err_cmd := s.err_cmd

/-- The held type code as a value, `none` when there is none: the partial view that 93_implementation_defined.md U3
asks a model to give, since the source gives the predicates no meaning there (log 6). -/
def Regs.heldType (s : Regs) : Option TypeCode :=
  if s.type_st = .valid then some (typeCode s.type_r) else none

end Sys2Proof.Machine
end

