-- ==== Sys2Proof/Machine/TypeUnit.lean ====
section
/-! DEFINITION. The commands of the type unit (41_type.md R78, R81). -/

namespace Sys2Proof.Machine

/-- `TYPE_LOAD w`: holds a word of four letters whole, and raises InvalidChunkType on any other; what was held before
has no influence (41_type.md R78, R79, R80). -/
def execTypeLoad (w : Word) (s : State) : Host.Outcome State Fault Refusal :=
  if validType w = true then .next (s.writeType w .valid) else .next s.raiseInvalidChunkType

/-- `TYPE_CLR`: `type_r <- 0`, `type_st <- EMPTY` (41_type.md R81). -/
def execTypeClr (s : State) : Host.Outcome State Fault Refusal := .next (s.writeType 0x00000000 .empty)

end Sys2Proof.Machine
end

