-- ==== Sys2Proof/Machine/Port.lean ====
section
/-! DEFINITION. The command port (10_state.md R21, 70_reset_and_hazards.md R126) and runs of command words
(42_misc.md R93). -/

namespace Sys2Proof.Machine

/-- The acceptance of one command word (42_misc.md R91), the samples to come beside it. -/
def execWord (cw : CommandWord) (s : State) : Host.Outcome State Fault Refusal := exec (decode cw) s

/-- One rising edge at which the block is ready. Reset wins over a command at the same edge (60_exceptions.md R107);
without `cmd_valid` no step happens and all state holds (70_reset_and_hazards.md R126). -/
def edge (p : PortSample) (s : State) : Host.Outcome State Fault Refusal :=
  if p.rst = true then .next s.resetRegisters
  else if p.cmd_valid = true then execWord p.cmd s
  else .next s

/-- The host presents a command word. -/
def commandSample (cw : CommandWord) : PortSample := { rst := false, cmd_valid := true, cmd := cw }

/-- The host presents nothing. -/
def idleSample : PortSample := { rst := false, cmd_valid := false, cmd := 0 }

/-- The host asserts reset. -/
def resetSample : PortSample := { rst := true, cmd_valid := false, cmd := 0 }

/-- Take the next sample and react to it; a host that presents nothing more leaves the block as it is, "for as long as
it is clocked without reset" (42_misc.md R94). -/
def stepPort (s : State) : Host.Outcome State Fault Refusal :=
  match s.port with
  | [] => .next s
  | p :: rest => edge p (s.withPort rest)

/-- The state in which `cw` is the very next word presented, ahead of what the host presents after it. -/
def State.present (s : State) (cw : CommandWord) : State := s.withPort (commandSample cw :: s.port)

/-- `s` with the opcode-table word presented next; a number that is no command word is not presented (log 9). -/
def State.presentTableWord (s : State) (nbits w : Nat) : State :=
  match tableWord nbits w with
  | some cw => s.present cw
  | none => s

/-- A command on the registers alone: `exec` with nothing at the port. -/
def execRegs (i : Instr) (s : Regs) : Host.Outcome Regs Fault Refusal :=
  match exec i { toRegs := s, port := [] } with
  | .next t => .next t.toRegs
  | .fault r => .fault r
  | .refused r => .refused r

/-- `step(S, cw)` of 42_misc.md R91: the command word is an input, "one command per step" (10_state.md R27). -/
def acceptWord (cw : CommandWord) (s : Regs) : Host.Outcome Regs Fault Refusal := execRegs (decode cw) s

/-- A run over instructions, an input list (42_misc.md R93, 10_state.md R27). -/
def runInstrs (s : Regs) : List Instr → Host.Outcome Regs Fault Refusal
  | [] => .next s
  | i :: rest =>
    match execRegs i s with
    | .next s' => runInstrs s' rest
    | .fault r => .fault r
    | .refused r => .refused r

/-- `runs` of 42_misc.md R93. -/
def runs (s : Regs) (cws : List CommandWord) : Host.Outcome Regs Fault Refusal := runInstrs s (cws.map decode)

/-- The model-level tag of a step (60_exceptions.md R103); its codes are on no port. -/
inductive ResultTag where
  | ok
  | invalidChunkType
  | illegalCommand
deriving DecidableEq, Repr

/-- The codes of 60_exceptions.md R103. -/
def ResultTag.code : ResultTag → Nat
  | .ok => 0
  | .invalidChunkType => 1
  | .illegalCommand => 2

/-- The tag of executing `i` in `s` (60_exceptions.md R101, R102, R103). -/
def resultTag (i : Instr) (s : State) : ResultTag :=
  match i with
  | .nop | .crcInit | .crcByte _ | .typeClr => .ok
  | .crcType => if s.type_st = .valid then .ok else .illegalCommand
  | .typeLoad w => if validType w = true then .ok else .invalidChunkType
  | .reserved6 | .reserved7 | .reserved8 | .reserved9 | .reservedA => .illegalCommand
  | .reservedB | .reservedC | .reservedD | .reservedE | .reservedF => .illegalCommand

end Sys2Proof.Machine
end

