-- ==== Sys2Proof/Machine/Step.lean ====
section
/-! DEFINITION. One step: one rising clock edge at which the block is ready or reset (log 2). -/

namespace Sys2Proof.Machine

/-- The step of the machine: the next sample of the port is taken (70_reset_and_hazards.md R126, R120). -/
def step (s : State) : Host.Outcome State Fault Refusal := stepPort s

/-- `s` with an opcode-table word as the very next word on the command port (log 3). -/
def State.withFetchWord (s : State) (nbits w : Nat) : State := s.presentTableWord nbits w

end Sys2Proof.Machine
end

