-- ==== Sys2Proof/WellFormed.lean ====
section
/-! DEFINITION. Well-formedness. An `Instr` needs no check: its operands are `Byte` and `Word`, so the widths of
30_encoding.md R41 cannot be missed, and every row of the table may be presented (70_reset_and_hazards.md R132: "any
of the 2^36 words"). What can be ill-formed is an assembly line (30_encoding.md R46, R47). -/

namespace Sys2Proof

/-- An ASCII character: its code is below 0x80. -/
def asciiChar (c : Char) : Bool := decide (c.toNat < 0x80)

/-- A `CRC_BYTE` operand: "a number 0 to 255 ... or a one-character ASCII literal" (30_encoding.md R46). -/
def AsmOperand.isByte : AsmOperand → Bool
  | .number n => decide (n ≤ 255)
  | .char c => asciiChar c
  | .text _ => false

/-- A four-character ASCII literal (30_encoding.md R46, R47). -/
def AsmOperand.isTypeText : AsmOperand → Bool
  | .text cs => decide (cs.length = 4) && cs.all asciiChar
  | .number _ | .char _ => false

/-- A `TYPE_LOAD` operand: "a 32-bit number ... or a four-character ASCII literal" (30_encoding.md R46). -/
def AsmOperand.isTypeWord : AsmOperand → Bool
  | .number n => decide (n < 2 ^ 32)
  | .text cs => (AsmOperand.text cs).isTypeText
  | .char _ => false

/-- The operands of `CRC_BYTES`: `b1 b2 ... bn`, or one text literal (30_encoding.md R47). -/
def isByteSequence : List AsmOperand → Bool
  | [.text cs] => cs.all asciiChar
  | ops => ops.all AsmOperand.isByte

/-- The operands a mnemonic may take (30_encoding.md R46, R47); that `CHECKSUM` and `CHUNK_CRC` take their bytes in every
form that `CRC_BYTES` does is log 12's choice. -/
def AsmLine.wellFormed (l : AsmLine) : Bool :=
  match l.mnemonic, l.operands with
  | .nop, ops | .crcInit, ops | .crcType, ops | .typeClr, ops => ops.isEmpty
  | .crcByte, [o] => o.isByte
  | .crcByte, _ => false
  | .typeLoad, [o] => o.isTypeWord
  | .typeLoad, _ => false
  | .crcBytes, ops | .checksum, ops => isByteSequence ops
  | .chunkCrc, t :: ops => t.isTypeText && isByteSequence ops
  | .chunkCrc, [] => false

end Sys2Proof
end

