-- ==== Sys2Proof/Machine/Assembler.lean ====
section
/-! DEFINITION. The assembler: a line of text to instructions (30_encoding.md R46), and the pseudo-commands (R47).
What R46 leaves open of the text is fixed in log 12. -/

namespace Sys2Proof.Machine

/-- The byte of an ASCII character. -/
def charByte (c : Char) : Byte := BitVec.ofNat 8 c.toNat

/-- The bytes a written operand stands for, left to right (30_encoding.md R46, R47). -/
def operandBytes : AsmOperand → List Byte
  | .number n => [BitVec.ofNat 8 n]
  | .char c => [charByte c]
  | .text cs => cs.map charByte

/-- The word of a `TYPE_LOAD` operand: a number, or four characters, the first at byte position 0 (30_encoding.md R46). -/
def operandWord : AsmOperand → Word
  | .number n => BitVec.ofNat 32 n
  | .text [a, b, c, d] => wordOfBytes (charByte a) (charByte b) (charByte c) (charByte d)
  | .text _ | .char _ => 0

/-- `CRC_BYTES` (30_encoding.md R47): one `CRC_BYTE` a byte, in order; none for no byte. -/
def expandBytes (ops : List AsmOperand) : List Instr := (ops.flatMap operandBytes).map .crcByte

/-- The commands a line stands for, when it is well-formed (30_encoding.md R46, R47). -/
def expandLine (l : AsmLine) : List Instr :=
  match l.mnemonic, l.operands with
  | .nop, _ => [.nop]
  | .crcInit, _ => [.crcInit]
  | .crcByte, ops => expandBytes ops
  | .crcType, _ => [.crcType]
  | .typeLoad, ops => ops.map fun o => .typeLoad (operandWord o)
  | .typeClr, _ => [.typeClr]
  | .crcBytes, ops => expandBytes ops
  | .checksum, ops => .crcInit :: expandBytes ops
  | .chunkCrc, t :: ops => .typeLoad (operandWord t) :: .crcInit :: .crcType :: expandBytes ops
  | .chunkCrc, [] => []

/-- Assemble a line; an ill-formed line is rejected. -/
def assemble (l : AsmLine) : Option (List Instr) := if l.wellFormed = true then some (expandLine l) else none

/-- The tokens of a line. -/
inductive Token where
  | word (cs : List Char)
  | char (c : Char)
  | text (cs : List Char)
deriving DecidableEq, Repr

/-- Where the lexer stands: between tokens, in a bare word, in a double-quoted text (characters so far, last first), or
after the opening quote of a character literal and after its character. -/
inductive LexMode where
  | between
  | word (acc : List Char)
  | text (acc : List Char)
  | quote
  | quoted (c : Char)
deriving DecidableEq, Repr

/-- The tokens of a line up to the `;` that "starts a comment to the end of the line" (30_encoding.md R46); `none` for
an unfinished literal. DESIGN CHOICE, log 12: a `;` inside a quoted literal is a character of it and starts no comment; a
quote that follows a bare word without a space is part of the word, which no mnemonic and no number is, so that
`CRC_BYTE'a'` is rejected; after a literal the next token needs no space. R46 says none of the three. -/
def lex : LexMode → List Char → Option (List Token)
  | .between, [] => some []
  | .word acc, [] => some [.word acc.reverse]
  | .text _, [] | .quote, [] | .quoted _, [] => none
  | .between, c :: cs =>
    if c = ';' then some []
    else if c = ' ' ∨ c = '\t' then lex .between cs
    else if c = '"' then lex (.text []) cs
    else if c = '\'' then lex .quote cs
    else lex (.word [c]) cs
  | .word acc, c :: cs =>
    if c = ';' then some [.word acc.reverse]
    else if c = ' ' ∨ c = '\t' then (lex .between cs).map (.word acc.reverse :: ·)
    else lex (.word (c :: acc)) cs
  | .text acc, c :: cs =>
    if c = '"' then (lex .between cs).map (.text acc.reverse :: ·) else lex (.text (c :: acc)) cs
  | .quote, c :: cs => lex (.quoted c) cs
  | .quoted d, c :: cs => if c = '\'' then (lex .between cs).map (.char d :: ·) else none

/-- The value of a digit below `base`; hexadecimal letters in either case (log 12). -/
def digitValue (base : Nat) (c : Char) : Option Nat :=
  let n := c.toNat
  let v := if 48 ≤ n ∧ n ≤ 57 then n - 48 else if 65 ≤ n ∧ n ≤ 70 then n - 55 else if 97 ≤ n ∧ n ≤ 102 then n - 87 else 16
  if v < base then some v else none

/-- Digits, most significant first, onto a value so far. -/
def readDigits (base acc : Nat) : List Char → Option Nat
  | [] => some acc
  | c :: cs =>
    match digitValue base c with
    | some v => readDigits base (base * acc + v) cs
    | none => none

/-- A number: `0x` and hexadecimal digits, or decimal digits (30_encoding.md R46). -/
def readNumber : List Char → Option Nat
  | '0' :: 'x' :: c :: cs => readDigits 16 0 (c :: cs)
  | c :: cs => readDigits 10 0 (c :: cs)
  | [] => none

/-- The mnemonics, "in upper case" (30_encoding.md R46). -/
def mnemonicNames : List (List Char × Mnemonic) :=
  [(['N', 'O', 'P'], .nop),
   (['C', 'R', 'C', '_', 'I', 'N', 'I', 'T'], .crcInit),
   (['C', 'R', 'C', '_', 'B', 'Y', 'T', 'E'], .crcByte),
   (['C', 'R', 'C', '_', 'T', 'Y', 'P', 'E'], .crcType),
   (['T', 'Y', 'P', 'E', '_', 'L', 'O', 'A', 'D'], .typeLoad),
   (['T', 'Y', 'P', 'E', '_', 'C', 'L', 'R'], .typeClr),
   (['C', 'R', 'C', '_', 'B', 'Y', 'T', 'E', 'S'], .crcBytes),
   (['C', 'H', 'E', 'C', 'K', 'S', 'U', 'M'], .checksum),
   (['C', 'H', 'U', 'N', 'K', '_', 'C', 'R', 'C'], .chunkCrc)]

/-- An operand's token as an operand. -/
def readOperand : Token → Option AsmOperand
  | .word cs => (readNumber cs).map .number
  | .char c => some (.char c)
  | .text cs => some (.text cs)

/-- The instructions of one line of text: none for a blank or comment-only line (log 12). -/
def assembleText (line : List Char) : Option (List Instr) :=
  match lex .between line with
  | some [] => some []
  | some (.word m :: args) =>
    match mnemonicNames.find? (fun row => row.1 == m), args.mapM readOperand with
    | some (_, mnemonic), some operands => assemble { mnemonic, operands }
    | _, _ => none
  | some (.char _ :: _) | some (.text _ :: _) | none => none

end Sys2Proof.Machine
end

