-- ==== Sys2Proof/Machine/BitSerial.lean ====
section
/-! DEFINITION. The shift register of a bit-serial build: what 10_state.md R24(b) says an `IMPL = BITSERIAL`
implementation holds while `cmd_ready = 0`. Not architectural; `step` uses none of it. -/

namespace Sys2Proof.Machine

/-- The register, the byte being shifted and the bit counter (10_state.md R24). -/
structure BitSerial where
  reg : Word
  shift : Byte
  count : Nat
deriving DecidableEq, Repr

/-- One clock: one `bitstep` on the byte's lowest remaining bit (40_crc.md R52: the register is clocked "once per data
bit"); an engine that has finished holds. -/
def BitSerial.clock (e : BitSerial) : BitSerial :=
  match e.count with
  | 0 => e
  | n + 1 => { reg := bitstep e.reg (e.shift.getLsbD 0), shift := e.shift >>> 1, count := n }

/-- The edge that accepts a byte. DESIGN CHOICE, log 14: this edge does the first `bitstep` itself, so that seven more
clocks follow and the counter is nonzero exactly while `cmd_ready = 0` at LAT_BYTE 8. R24(b) says what is held while
`cmd_ready = 0` and not which edge does the first `bitstep`. -/
def BitSerial.accept (c : Word) (b : Byte) : BitSerial := BitSerial.clock { reg := c, shift := b, count := 8 }

/-- A number of clocks. -/
def BitSerial.clocks : Nat → BitSerial → BitSerial
  | 0, e => e
  | n + 1, e => BitSerial.clocks n e.clock

end Sys2Proof.Machine
end

