-- ==== Sys2Proof/Machine/Clock.lean ====
section
/-! DEFINITION. The clock layer around `exec`: acceptance, `cmd_ready`, latency, what may be sampled, and the host's duty
to hold a word (70_reset_and_hazards.md R120, R126, R127, R128, R131, R132). "A model models no time": `step` uses none
of this; it is here so that the rules about clock cycles, and the rule that no result depends on them, can be stated.
`lat` is LAT_BYTE, a positive integer (00_scope.md R6, log 11). -/

namespace Sys2Proof.Machine

/-- The block between two rising edges. `regs` are the registers as the last accepted command leaves them, `busy` the
number of coming edges at which no command can be accepted, `waiting` the word that the host has presented and the block
has not accepted. -/
structure ClockState where
  regs : Regs
  busy : Nat
  waiting : Option CommandWord
deriving DecidableEq, Repr

/-- Clock cycles from the accepting edge to the first edge at which the next command can be accepted
(70_reset_and_hazards.md R131). -/
def latency (lat : Nat) : Instr → Nat
  | .crcByte _ => lat
  | .crcType => 4 * lat
  | .nop | .crcInit | .typeLoad _ | .typeClr => 1
  | .reserved6 | .reserved7 | .reserved8 | .reserved9 | .reservedA => 1
  | .reservedB | .reservedC | .reservedD | .reservedE | .reservedF => 1

/-- `cmd_ready` (10_state.md R21): a function of the busy state, not of `S`. -/
def ClockState.cmdReady (k : ClockState) : Bool := decide (k.busy = 0)

/-- The outputs the host may sample: `out(S)` while `cmd_ready = 1`, no value while it is 0 (70_reset_and_hazards.md
R128, log 7). -/
def ClockState.outputs (k : ClockState) : Option Outputs := if k.busy = 0 then some k.regs.out else none

/-- The host's duty at one edge (70_reset_and_hazards.md R126, R132): a word that waits is presented again, unchanged.
DESIGN CHOICE, log 15: withdrawing it breaks the duty too, and a reset edge releases it. -/
def keepsWord (waiting : Option CommandWord) (p : PortSample) : Bool :=
  match waiting with
  | none => true
  | some cw => p.rst || (p.cmd_valid && decide (p.cmd = cw))

/-- The word that waits after an edge without reset at which the block is busy. -/
def waitingWord (p : PortSample) : Option CommandWord := if p.cmd_valid = true then some p.cmd else none

/-- One rising edge (70_reset_and_hazards.md R120, R126): reset wins and abandons a command in progress; a word is
accepted exactly when `cmd_valid = 1` and `cmd_ready = 1`; a word presented to a busy block waits. A host that does not
hold a waiting word is refused (93_implementation_defined.md U10): R132 gives it "no move that breaks" a duty. -/
def clockEdge (lat : Nat) (p : PortSample) (k : ClockState) : Host.Outcome ClockState Fault Refusal :=
  if p.rst = true then .next { regs := Regs.reset, busy := 0, waiting := none }
  else if keepsWord k.waiting p = false then .refused .wordNotHeld
  else if k.busy = 0 then
    if p.cmd_valid = true then
      match acceptWord p.cmd k.regs with
      | .next s' => .next { regs := s', busy := latency lat (decode p.cmd) - 1, waiting := none }
      | .fault r => .fault r
      | .refused r => .refused r
    else .next k
  else .next { k with busy := k.busy - 1, waiting := waitingWord p }

/-- A sequence of rising edges. -/
def clockRun (lat : Nat) (k : ClockState) : List PortSample → Host.Outcome ClockState Fault Refusal
  | [] => .next k
  | p :: rest =>
    match clockEdge lat p k with
    | .next k' => clockRun lat k' rest
    | .fault r => .fault r
    | .refused r => .refused r

/-- Of a sequence of edges at a block that is busy for `busy` more of them, those that have an effect: the resets, and
those at which `cmd_ready = 1`. They are what `step` takes from `State.port` (log 2). -/
def effectiveSamples (lat : Nat) (busy : Nat) : List PortSample → List PortSample
  | [] => []
  | p :: rest =>
    if p.rst = true then p :: effectiveSamples lat 0 rest
    else
      match busy with
      | 0 => p :: effectiveSamples lat (if p.cmd_valid = true then latency lat (decode p.cmd) - 1 else 0) rest
      | n + 1 => effectiveSamples lat n rest

/-- The host keeps its duty along a sequence of edges at a block that is busy for `busy` more of them while `waiting`
waits (70_reset_and_hazards.md R132). -/
def keepsDuty (lat : Nat) (busy : Nat) (waiting : Option CommandWord) : List PortSample → Bool
  | [] => true
  | p :: rest =>
    if p.rst = true then keepsDuty lat 0 none rest
    else
      keepsWord waiting p &&
        match busy with
        | 0 => keepsDuty lat (if p.cmd_valid = true then latency lat (decode p.cmd) - 1 else 0) none rest
        | n + 1 => keepsDuty lat n (waitingWord p) rest

/-- What a host presents while the block is busy, when the words `rest` are still to come: the next word, which waits
(`early`), or nothing. -/
def meanwhile (early : Bool) (rest : List CommandWord) : PortSample :=
  match early, rest with
  | true, cw :: _ => commandSample cw
  | true, [] | false, _ => idleSample

/-- The edges of a host that presents each word and goes on to the next when the block is ready again. -/
def hostEdges (lat : Nat) (early : Bool) : List CommandWord → List PortSample
  | [] => []
  | cw :: rest =>
    commandSample cw :: List.replicate (latency lat (decode cw) - 1) (meanwhile early rest) ++ hostEdges lat early rest

end Sys2Proof.Machine
end

