-- ==== Sys2Proof/Safety.lean ====
section
/-! DEFINITION. What a safe run is: the invariant of 10_state.md R16 and the named premises of 42_misc.md R94. -/

namespace Sys2Proof.Machine

/-- The state invariant, 10_state.md R16 (b) and (c); (a), `type_st` is not 0b11, is built into `TypeSt`. -/
def Regs.Inv (s : Regs) : Prop :=
  (s.type_st = .valid → validType s.type_r = true) ∧ (s.type_st ≠ .valid → s.type_r = 0)

/-- from-reset (42_misc.md R94). -/
def Regs.FromReset (s : Regs) : Prop := s = Regs.reset

/-- no-fault (42_misc.md R94). -/
def Regs.NoFault (s : Regs) : Prop := s.err_cmd = false

/-- type-held (42_misc.md R94). -/
def Regs.TypeHeld (s : Regs) : Prop := s.type_st = .valid

/-- The word of the valid code held, if one is. -/
def Regs.heldWord (s : Regs) : Option Word := s.heldType.map TypeCode.raw

/-- The bytes of the `CRC_BYTE` commands of a sequence, in order (40_crc.md R61). -/
def fedBytes (is : List Instr) : List Byte :=
  is.filterMap fun
    | .crcByte b => some b
    | _ => none

/-- A sequence with its `NOP` commands taken out (40_crc.md R66 (d)). -/
def withoutNops (is : List Instr) : List Instr := is.filter fun i => decide (i ≠ .nop)

/-- The commands 40_crc.md R61 lets stand between the bytes of a checksum. -/
def interleaves (i : Instr) : Prop :=
  i = .nop ∨ (∃ b, i = .crcByte b) ∨ (∃ w, i = .typeLoad w) ∨ i = .typeClr

/-- The bytes fed since the last initialisation (10_state.md R17), `acc` being those fed before the sequence and `held`
the code held then. A `CRC_BYTE` feeds its byte and a `CRC_TYPE` the four bytes of the code held at that moment, if one is
(40_crc.md R60, R62); `CRC_INIT` starts anew; the type commands change what is held (41_type.md R78, R81). -/
def bytesFed (held : Option Word) (acc : List Byte) : List Instr → List Byte
  | [] => acc
  | .crcInit :: rest => bytesFed held [] rest
  | .crcByte b :: rest => bytesFed held (acc ++ [b]) rest
  | .crcType :: rest => bytesFed held (acc ++ held.elim [] typeBytes) rest
  | .typeLoad w :: rest => bytesFed (if validType w = true then some w else none) acc rest
  | .typeClr :: rest => bytesFed none acc rest
  | .nop :: rest | .reserved6 :: rest | .reserved7 :: rest | .reserved8 :: rest | .reserved9 :: rest
  | .reservedA :: rest | .reservedB :: rest | .reservedC :: rest | .reservedD :: rest | .reservedE :: rest
  | .reservedF :: rest => bytesFed held acc rest

end Sys2Proof.Machine
end

