-- ==== Sys2Proof/Certificates/Slice0/Obligations.lean ====
section
/-! DEFINITION. The statements for the provers, from the numbered rules of spec/. A statement marked derived rests on a
rule the spec itself marks as derived, or on a log entry it names. -/

open Sys2Proof Sys2Proof.Machine

/-! ### Encoding -/

/-- 30_encoding.md R42: the six commands, their mask and match, their canonical words. -/
def Obligations.DecodeFollowsTheOpcodeMap : Prop :=
  (∀ cw : CommandWord,
    (cw &&& 0xF00000000 = 0x000000000 → decode cw = .nop) ∧
    (cw &&& 0xF00000000 = 0x100000000 → decode cw = .crcInit) ∧
    (cw &&& 0xF00000000 = 0x200000000 → decode cw = .crcByte (cw.setWidth 8)) ∧
    (cw &&& 0xF00000000 = 0x300000000 → decode cw = .crcType) ∧
    (cw &&& 0xF00000000 = 0x400000000 → decode cw = .typeLoad (cw.setWidth 32)) ∧
    (cw &&& 0xF00000000 = 0x500000000 → decode cw = .typeClr)) ∧
  encode .nop = 0x000000000 ∧ encode .crcInit = 0x100000000 ∧
  (∀ b : Byte, encode (.crcByte b) = 0x200000000 ||| b.setWidth 36) ∧ encode .crcType = 0x300000000 ∧
  (∀ w : Word, encode (.typeLoad w) = 0x400000000 ||| w.setWidth 36) ∧ encode .typeClr = 0x500000000

/-- 30_encoding.md R41: which operand bits are used, that the others have no effect, and that canonical words hold them
at 0. -/
def Obligations.IgnoredBitsHaveNoEffect : Prop :=
  (∀ (cw cw' : CommandWord) (s : State), cw &&& 0xF00000000 = cw' &&& 0xF00000000 →
    (cw &&& 0xF00000000 = 0x200000000 → cw.setWidth 8 = cw'.setWidth 8) →
    (cw &&& 0xF00000000 = 0x400000000 → cw.setWidth 32 = cw'.setWidth 32) →
    execWord cw s = execWord cw' s) ∧
  (∀ cw : CommandWord, cw &&& 0xF00000000 = 0x200000000 → decode cw = .crcByte (cw.setWidth 8)) ∧
  (∀ cw : CommandWord, cw &&& 0xF00000000 = 0x400000000 → decode cw = .typeLoad (cw.setWidth 32)) ∧
  (∀ b : Byte, encode (.crcByte b) &&& 0x0FFFFFF00 = 0) ∧
  (∀ i : Instr, (∀ b, i ≠ .crcByte b) → (∀ w, i ≠ .typeLoad w) → encode i &&& 0x0FFFFFFFF = 0)

/-- Derived (30_encoding.md, section 2): decoding the canonical word of an instruction gives it back, with every operand
at every value. -/
def Obligations.DecodeEncodeIsIdentity : Prop := ∀ i : Instr, decode (encode i) = i

/-- Derived (30_encoding.md, section 2): re-encoding a decoded word gives a word of the same effect, and the same word
when its ignored bits are 0. -/
def Obligations.EncodeDecodeIsCanonical : Prop :=
  (∀ (cw : CommandWord) (s : State), execWord (encode (decode cw)) s = execWord cw s) ∧
  (∀ cw : CommandWord,
    (cw &&& 0xF00000000 = 0x200000000 → cw &&& 0x0FFFFFF00 = 0) →
    (cw &&& 0xF00000000 ≠ 0x200000000 → cw &&& 0xF00000000 ≠ 0x400000000 → cw &&& 0x0FFFFFFFF = 0) →
    encode (decode cw) = cw)

/-- Derived (95_test_vectors.md, sections 2.5 and 3): words the spec writes out, one or more of every family, some with
ignored bits set. -/
def Obligations.SpelledOutWordsDecode : Prop :=
  decode 0x0DEADBEEF = .nop ∧ decode 0x100000000 = .crcInit ∧ decode 0x2FFFFFF61 = .crcByte 0x61 ∧
  decode 0x300000000 = .crcType ∧ decode 0x452755374 = .typeLoad 0x52755374 ∧ decode 0x5FFFFFFFF = .typeClr ∧
  decode 0x600000000 = .reserved6 ∧ decode 0x712345678 = .reserved7 ∧ decode 0xFFFFFFFFF = .reservedF

/-! ### The step -/

/-- Derived (42_misc.md, the step function; log 1 and log 2 are the model's own choice of where the host's words stand):
a step takes the next sample; a command runs as the decoded instruction, no command leaves the registers alone, and
with no sample left nothing changes. -/
def Obligations.StepRunsThePresentedCommand : Prop :=
  (∀ (s : State) (p : PortSample) (rest : List PortSample), s.port = p :: rest → p.rst = false →
    (p.cmd_valid = true → step s = exec (decode p.cmd) { s with port := rest }) ∧
    (p.cmd_valid = false → step s = .next { s with port := rest })) ∧
  (∀ s : State, s.port = [] → step s = .next s)

/-- Derived (log 3 and log 9, the model's own choice): the host's opcode-table word is the very next command. -/
def Obligations.StepRunsTheTableWord : Prop :=
  ∀ (s : State) (nbits w : Nat), 36 ≤ nbits → w < 2 ^ 36 →
    decodeTableWord nbits w = some (decode (BitVec.ofNat 36 w)) ∧
    step (s.withFetchWord nbits w) = exec (decode (BitVec.ofNat 36 w)) s

/-- 10_state.md R25: the registers after reset, the outputs, `cmd_ready`. -/
def Obligations.ResetLeavesTheListedValues : Prop :=
  State.reset.crc_r = 0xFFFFFFFF ∧ State.reset.type_r = 0x00000000 ∧ State.reset.type_st = .empty ∧
  State.reset.type_st.code = 0b00 ∧ State.reset.err_cmd = false ∧ State.reset.crcOut = checksum [] ∧
  State.reset.out = { crc_out := 0x00000000, type_out := 0x00000000, type_st := 0b00, is_critical := false,
                      is_public := false, is_reserved_bit_valid := false, is_safe_to_copy := false, err_cmd := false } ∧
  (∀ (s : State) (rest : List PortSample) (p : PortSample), p.rst = true → s.port = p :: rest →
    step s = .next { State.reset with port := rest }) ∧
  (∀ (lat : Nat) (k : ClockState) (p : PortSample), p.rst = true →
    ∃ k', clockEdge lat p k = .next k' ∧ k'.cmdReady = true ∧ k'.outputs = some State.reset.out)

/-- 70_reset_and_hazards.md R120: an edge with `rst = 1` gives `S0` from every state, busy or not, whatever is on the
command port, and is the only way to clear `err_cmd`. -/
def Obligations.ResetEdgeGivesS0 : Prop :=
  (∀ (s : State) (p : PortSample) (rest : List PortSample), s.port = p :: rest → p.rst = true →
    step s = .next { crc_r := 0xFFFFFFFF, type_r := 0, type_st := .empty, err_cmd := false, port := rest }) ∧
  (∀ (lat : Nat) (k : ClockState) (p : PortSample), p.rst = true →
    ∃ k', clockEdge lat p k = .next k' ∧
      k'.regs = { crc_r := 0xFFFFFFFF, type_r := 0, type_st := .empty, err_cmd := false } ∧ k'.cmdReady = true) ∧
  (∀ s t : State, step s = .next t → s.err_cmd = true → t.err_cmd = false →
    ∃ p rest, s.port = p :: rest ∧ p.rst = true)

/-! ### The commands -/

/-- 42_misc.md R90. -/
def Obligations.NopChangesNothing : Prop :=
  (∀ s : State, exec .nop s = .next s) ∧
  (∀ cw : CommandWord, cw &&& 0xF00000000 = 0x000000000 → decode cw = .nop) ∧ encode .nop = 0x000000000 ∧
  (∀ s : State, resultTag .nop s = .ok) ∧
  (∀ (s : State) (cw : CommandWord) (idle : PortSample) (rest : List PortSample),
    cw &&& 0xF00000000 = 0x000000000 → idle.rst = false → idle.cmd_valid = false →
    step { s with port := { rst := false, cmd_valid := true, cmd := cw } :: rest } =
      step { s with port := idle :: rest }) ∧
  decode 0x0DEADBEEF = .nop

/-- 40_crc.md R59. -/
def Obligations.CrcInitStartsAChecksum : Prop :=
  (∀ s : State, exec .crcInit s = .next { s with crc_r := 0xFFFFFFFF }) ∧
  (∀ cw : CommandWord, cw &&& 0xF00000000 = 0x100000000 → decode cw = .crcInit) ∧ encode .crcInit = 0x100000000 ∧
  (∀ s : State, resultTag .crcInit s = .ok) ∧
  (∀ s t : State, exec .crcInit s = .next t → exec .crcInit t = .next t ∧ t.out.crc_out = 0x00000000) ∧
  exec .crcInit State.reset = .next State.reset

/-- 40_crc.md R60, with its corner cases: a zero byte is no no-op, and for each byte the update is a bijection. -/
def Obligations.CrcByteUpdatesTheRunningValue : Prop :=
  (∀ (b : Byte) (s : State), exec (.crcByte b) s = .next { s with crc_r := upd s.crc_r b }) ∧
  (∀ cw : CommandWord, cw &&& 0xF00000000 = 0x200000000 → decode cw = .crcByte (cw.setWidth 8)) ∧
  (∀ b : Byte, encode (.crcByte b) = 0x200000000 ||| b.setWidth 36) ∧
  (∀ (b : Byte) (s : State), resultTag (.crcByte b) s = .ok) ∧
  (∀ b : Byte, Function.Bijective fun c : Word => upd c b) ∧
  exec (.crcByte 0x00) State.reset = .next { State.reset with crc_r := 0x2DFD1072 } ∧
  exec (.crcByte 0x61) State.reset = .next { State.reset with crc_r := 0x174841BC } ∧
  ~~~ (0x2DFD1072 : Word) = 0xD202EF8D ∧ ~~~ (0x174841BC : Word) = 0xE8B7BE43 ∧ checksum [0x61] = 0xE8B7BE43

/-- 40_crc.md R62. -/
def Obligations.CrcTypeFeedsTheHeldCode : Prop :=
  (∀ s : State, s.type_st = .valid →
    ∃ r0 r1 r2 r3, r0 = upd s.crc_r (s.type_r.extractLsb' 24 8) ∧ r1 = upd r0 (s.type_r.extractLsb' 16 8) ∧
      r2 = upd r1 (s.type_r.extractLsb' 8 8) ∧ r3 = upd r2 (s.type_r.extractLsb' 0 8) ∧
      exec .crcType s = .next { s with crc_r := r3 }) ∧
  (∀ s : State, s.type_st = .empty ∨ s.type_st = .invalid → exec .crcType s = .next { s with err_cmd := true }) ∧
  (∀ cw : CommandWord, cw &&& 0xF00000000 = 0x300000000 → decode cw = .crcType) ∧ encode .crcType = 0x300000000 ∧
  (∀ s : State, resultTag .crcType s = .illegalCommand ↔ s.type_st = .empty ∨ s.type_st = .invalid) ∧
  (∀ S : Regs, S.type_st = .valid →
    runInstrs S [.crcType, .crcType] =
      .next { S with crc_r := crcRun S.crc_r (typeBytes S.type_r ++ typeBytes S.type_r) }) ∧
  exec .crcType { State.reset with type_r := 0x52755374, type_st := .valid } =
    .next { State.reset with type_r := 0x52755374, type_st := .valid, crc_r := 0x2B7BF6C3 }

/-- 41_type.md R78 and R80: a load holds a word of four letters whole and nothing of any other, in every state, and the
old code has no influence. -/
def Obligations.TypeLoadHoldsLettersOrNothing : Prop :=
  (∀ (w : Word) (s : State), validType w = true →
    exec (.typeLoad w) s = .next { s with type_r := w, type_st := .valid }) ∧
  (∀ (w : Word) (s : State), validType w = false →
    exec (.typeLoad w) s = .next { s with type_r := 0x00000000, type_st := .invalid }) ∧
  (∀ w : Word, validType w = true ↔
    isLetter (w.extractLsb' 24 8) = true ∧ isLetter (w.extractLsb' 16 8) = true ∧
    isLetter (w.extractLsb' 8 8) = true ∧ isLetter (w.extractLsb' 0 8) = true) ∧
  (∀ cw : CommandWord, cw &&& 0xF00000000 = 0x400000000 → decode cw = .typeLoad (cw.setWidth 32)) ∧
  (∀ w : Word, encode (.typeLoad w) = 0x400000000 ||| w.setWidth 36) ∧
  (∀ (w : Word) (s : State), resultTag (.typeLoad w) s = .invalidChunkType ↔ validType w = false) ∧
  (∀ (w : Word) (s t : State), exec (.typeLoad w) s = .next t → exec (.typeLoad w) t = .next t) ∧
  (∀ (w old : Word) (was : TypeSt) (s : State),
    exec (.typeLoad w) { s with type_r := old, type_st := was } = exec (.typeLoad w) s) ∧
  validType 0x52755374 = true ∧ validType 0x52753174 = false ∧
  (∀ s t : State, exec (.typeLoad 0x52755374) s = .next t →
    t.out.is_critical = true ∧ t.out.is_public = false ∧ t.out.is_reserved_bit_valid = true ∧
    t.out.is_safe_to_copy = true)

/-- 41_type.md R81; after it `CRC_TYPE` is illegal through any commands without a successful `TYPE_LOAD`. -/
def Obligations.TypeClrDiscardsTheCode : Prop :=
  (∀ s : State, exec .typeClr s = .next { s with type_r := 0x00000000, type_st := .empty }) ∧
  (∀ cw : CommandWord, cw &&& 0xF00000000 = 0x500000000 → decode cw = .typeClr) ∧ encode .typeClr = 0x500000000 ∧
  (∀ s : State, resultTag .typeClr s = .ok) ∧
  (∀ s t : State, exec .typeClr s = .next t →
    exec .typeClr t = .next t ∧ exec .crcType t = .next { t with err_cmd := true } ∧
    t.out.is_critical = false ∧ t.out.is_public = false ∧ t.out.is_reserved_bit_valid = false ∧
    t.out.is_safe_to_copy = false) ∧
  (∀ (S : Regs) (is : List Instr), (∀ w, .typeLoad w ∈ is → validType w = false) →
    ∃ T, runInstrs S (.typeClr :: is) = .next T ∧ T.type_st ≠ .valid ∧ T.type_r = 0x00000000 ∧
      ∀ t : State, t.toRegs = T →
        exec .crcType t = .next { t with err_cmd := true } ∧ resultTag .crcType t = .illegalCommand) ∧
  (∀ (i : Instr) (s t : State), s.type_st = .invalid → exec i s = .next t → t.type_st ≠ .invalid →
    i = .typeClr ∨ ∃ w, i = .typeLoad w ∧ validType w = true)

/-- 30_encoding.md R43: every word with opcode 0x6 to 0xF, whatever its other bits, sets `err_cmd` and nothing else; so
does each of the ten reserved rows. -/
def Obligations.ReservedWordsSetErrCmdOnly : Prop :=
  (∀ (cw : CommandWord) (s : State), 0x600000000 ≤ cw → execWord cw s = .next { s with err_cmd := true }) ∧
  (∀ cw : CommandWord,
    (cw &&& 0xF00000000 = 0x600000000 → decode cw = .reserved6) ∧
    (cw &&& 0xF00000000 = 0x700000000 → decode cw = .reserved7) ∧
    (cw &&& 0xF00000000 = 0x800000000 → decode cw = .reserved8) ∧
    (cw &&& 0xF00000000 = 0x900000000 → decode cw = .reserved9) ∧
    (cw &&& 0xF00000000 = 0xA00000000 → decode cw = .reservedA) ∧
    (cw &&& 0xF00000000 = 0xB00000000 → decode cw = .reservedB) ∧
    (cw &&& 0xF00000000 = 0xC00000000 → decode cw = .reservedC) ∧
    (cw &&& 0xF00000000 = 0xD00000000 → decode cw = .reservedD) ∧
    (cw &&& 0xF00000000 = 0xE00000000 → decode cw = .reservedE) ∧
    (cw &&& 0xF00000000 = 0xF00000000 → decode cw = .reservedF)) ∧
  (∀ (i : Instr) (s : State), i ∈ [.reserved6, .reserved7, .reserved8, .reserved9, .reservedA, .reservedB, .reservedC,
      .reservedD, .reservedE, .reservedF] → exec i s = .next { s with err_cmd := true })

/-! ### The two errors -/

/-- 60_exceptions.md R101 and 41_type.md R79: InvalidChunkType is raised by `TYPE_LOAD` of a word with a byte that is no
letter and by nothing else; it leaves nothing of the word, and not `err_cmd`; a later `TYPE_LOAD`, `TYPE_CLR` or reset
clears it. -/
def Obligations.InvalidChunkTypeIsRecordedInTypeSt : Prop :=
  (∀ (i : Instr) (s : State), resultTag i s = .invalidChunkType ↔
    ∃ w, i = .typeLoad w ∧ ∃ b ∈ typeBytes w, isLetter b = false) ∧
  (∀ (i : Instr) (s : State), resultTag i s = .invalidChunkType →
    exec i s = .next { s with type_r := 0x00000000, type_st := .invalid }) ∧
  (∀ (i : Instr) (s t : State), exec i s = .next t → s.type_st ≠ .invalid → t.type_st = .invalid →
    resultTag i s = .invalidChunkType) ∧
  (∀ (w : Word) (s t : State), validType w = false → exec (.typeLoad w) s = .next t →
    t.typeOut = 0 ∧ t.heldType = none ∧ t.type_st.code = 0b10 ∧ t.out.is_critical = false ∧ t.out.is_public = false ∧
    t.out.is_reserved_bit_valid = false ∧ t.out.is_safe_to_copy = false) ∧
  (∀ (w w' : Word) (s : State), validType w = false → validType w' = false →
    exec (.typeLoad w) s = exec (.typeLoad w') s) ∧
  (∀ s t : State, s.type_st = .invalid → step s = .next t → t.type_st ≠ .invalid →
    ∃ p rest, s.port = p :: rest ∧ (p.rst = true ∨ decode p.cmd = .typeClr ∨
      ∃ w, decode p.cmd = .typeLoad w ∧ validType w = true)) ∧
  (∀ (w : Word) (s : State), validType w = true → ∃ t, exec (.typeLoad w) s = .next t ∧ t.type_st = .valid) ∧
  (∀ s : State, ∃ t, exec .typeClr s = .next t ∧ t.type_st = .empty) ∧
  (∀ (s : State) (p : PortSample) (rest : List PortSample), s.port = p :: rest → p.rst = true →
    ∃ t, step s = .next t ∧ t.type_st = .empty) ∧
  validType 0 = false ∧ ResultTag.invalidChunkType.code = 1

/-- 60_exceptions.md R102: the two causes of IllegalCommand, its whole effect, that it sticks, and that commands go on
executing as their rules say while it is recorded. -/
def Obligations.IllegalCommandIsStickyAndHarmless : Prop :=
  (∀ (cw : CommandWord) (s : State), resultTag (decode cw) s = .illegalCommand ↔
    0x600000000 ≤ cw ∨ (cw &&& 0xF00000000 = 0x300000000 ∧ (s.type_st = .empty ∨ s.type_st = .invalid))) ∧
  (∀ (i : Instr) (s : State), resultTag i s = .illegalCommand → exec i s = .next { s with err_cmd := true }) ∧
  (∀ (i : Instr) (s t : State), exec i s = .next t → s.err_cmd = true → t.err_cmd = true) ∧
  (∀ s t : State, s.err_cmd = true → step s = .next t → t.err_cmd = false →
    ∃ p rest, s.port = p :: rest ∧ p.rst = true) ∧
  (∀ (i : Instr) (s t : State), exec i s = .next t →
    exec i { s with err_cmd := true } = .next { t with err_cmd := true }) ∧
  ResultTag.illegalCommand.code = 2

/-- 60_exceptions.md R103: the three tags, their codes, and when each stands. -/
def Obligations.ResultTagsSayWhichErrorOccurred : Prop :=
  ResultTag.ok.code = 0 ∧ ResultTag.invalidChunkType.code = 1 ∧ ResultTag.illegalCommand.code = 2 ∧
  (∀ (i : Instr) (s : State),
    (resultTag i s = .invalidChunkType ↔ ∃ w, i = .typeLoad w ∧ validType w = false) ∧
    (resultTag i s = .illegalCommand ↔ i.isReserved = true ∨ (i = .crcType ∧ s.type_st ≠ .valid)) ∧
    (resultTag i s = .ok ↔ ¬ (∃ w, i = .typeLoad w ∧ validType w = false) ∧ i.isReserved = false ∧
      ¬ (i = .crcType ∧ s.type_st ≠ .valid)))

/-- 60_exceptions.md R105: a failed `TYPE_LOAD` repeated with the same word fails again, and the block repeats nothing on
its own: each sample is taken once. -/
def Obligations.RepeatingAFailedLoadFailsAgain : Prop :=
  (∀ (w : Word) (s t : State), validType w = false → exec (.typeLoad w) s = .next t →
    resultTag (.typeLoad w) t = .invalidChunkType ∧ exec (.typeLoad w) t = .next t) ∧
  (∀ (s t : State) (p : PortSample) (rest : List PortSample), s.port = p :: rest → step s = .next t → t.port = rest)

/-- 60_exceptions.md R107: which error each command can raise, and that reset wins over a command at the same edge. -/
def Obligations.AtMostOneErrorAndResetWins : Prop :=
  (∀ (w : Word) (s : State), resultTag (.typeLoad w) s ≠ .illegalCommand) ∧
  (∀ s : State, resultTag .crcType s ≠ .invalidChunkType) ∧
  (∀ (i : Instr) (s : State), i.isReserved = true → resultTag i s = .illegalCommand) ∧
  (∀ (b : Byte) (s : State), resultTag .nop s = .ok ∧ resultTag .crcInit s = .ok ∧ resultTag (.crcByte b) s = .ok ∧
    resultTag .typeClr s = .ok) ∧
  (∀ (i : Instr) (s t : State), exec i s = .next t → s.type_st ≠ .invalid → s.err_cmd = false →
    ¬ (t.type_st = .invalid ∧ t.err_cmd = true)) ∧
  (∀ (s : State) (valid : Bool) (cw : CommandWord) (rest : List PortSample),
    step { s with port := { rst := true, cmd_valid := valid, cmd := cw } :: rest } =
      .next { State.reset with port := rest })

/-! ### Whole-machine rules -/

/-- Derived (10_state.md, the read and write table): the FRAME of all sixteen commands. `crc_r` is written by the CRC
commands only, the two type registers by the type commands only, `err_cmd` by `CRC_TYPE` and the reserved words only and
never both `crc_r` and `err_cmd`; no command touches what the host presents. -/
def Obligations.RegistersAreWrittenByTheirCommandsOnly : Prop :=
  ∀ (i : Instr) (s t : State), exec i s = .next t →
    (t.crc_r ≠ s.crc_r → i = .crcInit ∨ (∃ b, i = .crcByte b) ∨ (i = .crcType ∧ s.type_st = .valid)) ∧
    (t.type_r ≠ s.type_r ∨ t.type_st ≠ s.type_st → (∃ w, i = .typeLoad w) ∨ i = .typeClr) ∧
    (t.err_cmd ≠ s.err_cmd → (i = .crcType ∧ s.type_st ≠ .valid) ∨ i.isReserved = true) ∧
    (t.crc_r ≠ s.crc_r → t.err_cmd = s.err_cmd) ∧ t.port = s.port

/-- Derived (42_misc.md, the step function): every command in every state, and every step, answers a next state. -/
def Obligations.EveryCommandAndStepCompletes : Prop :=
  (∀ (i : Instr) (s : State), ∃ t, exec i s = .next t) ∧ (∀ s : State, ∃ t, step s = .next t)

/-- Derived (10_state.md, the state invariant): it holds after reset. -/
def Obligations.ResetMeetsTheStateInvariant : Prop := State.reset.Inv

/-- Derived (10_state.md, the state invariant): every step keeps it, whatever the host presents. -/
def Obligations.StepKeepsTheStateInvariant : Prop := ∀ s t : State, s.Inv → step s = .next t → t.Inv

/-- Derived (10_state.md, the state invariant; 42_misc.md, a run; log 4): from reset, under any samples whatever, the
block never stops and is always in a state of the invariant. That the two bits of `type_st` are then not 0b11 is built
into the model's type (log 4). -/
def Obligations.EveryHostRunFromResetCompletesInTheInvariant : Prop :=
  ∀ (ps : List PortSample) (n : Nat),
    ∃ t : State, Host.Core.run core n { State.reset with port := ps } = .next t ∧ t.Inv ∧ t.out.type_st ≠ 0b11

/-- Derived (10_state.md R27; 42_misc.md, a run; log 1): the samples at the port are an input and no part of what a
command reads or writes; and words that the host presents one after another run as `runs` of the list of them. -/
def Obligations.WordsAtThePortRunAsAnInputList : Prop :=
  (∀ (i : Instr) (s t : State),
    exec i s = .next t ↔ execRegs i s.toRegs = .next t.toRegs ∧ t.port = s.port) ∧
  (∀ (S : Regs) (cw : CommandWord) (cws : List CommandWord),
    ∃ T, acceptWord cw S = .next T ∧ runs S (cw :: cws) = runs T cws) ∧
  (∀ (S : Regs) (cws : List CommandWord) (ps : List PortSample), ∃ T, runs S cws = .next T ∧
    Host.Core.run core cws.length { toRegs := S, port := cws.map commandSample ++ ps } =
      .next { toRegs := T, port := ps })

/-- Derived (42_misc.md, a run): after any command words `err_cmd` is 1 exactly when it was 1 before or some word was
reserved or was a `CRC_TYPE` in a state with no valid code. -/
def Obligations.ErrCmdRecordsExactlyTheIllegalCommands : Prop :=
  ∀ (s t : Regs) (cws : List CommandWord), runs s cws = .next t →
    (t.err_cmd = true ↔ s.err_cmd = true ∨
      ∃ before cw after m, cws = before ++ cw :: after ∧ runs s before = .next m ∧
        (0x600000000 ≤ cw ∨ (cw &&& 0xF00000000 = 0x300000000 ∧ m.type_st ≠ .valid)))

/-- Derived (42_misc.md, a run): the two units are independent except through `CRC_TYPE`. What a run does to the type
unit does not depend on `crc_r` or `err_cmd`; what it does to `crc_r` does not depend on `err_cmd`, nor, when it holds
no `CRC_TYPE`, on the type unit. -/
def Obligations.UnitsInfluenceEachOtherOnlyThroughCrcType : Prop :=
  ∀ (s s' t t' : Regs) (is : List Instr), runInstrs s is = .next t → runInstrs s' is = .next t' →
    (s.type_r = s'.type_r → s.type_st = s'.type_st → t.type_r = t'.type_r ∧ t.type_st = t'.type_st) ∧
    (s.crc_r = s'.crc_r → s.type_r = s'.type_r → s.type_st = s'.type_st → t.crc_r = t'.crc_r) ∧
    (s.crc_r = s'.crc_r → .crcType ∉ is → t.crc_r = t'.crc_r)

/-! ### Outputs -/

/-- 10_state.md R18, R19, R20: `type_out`, the four flags with their polarities, the two status outputs, and the partial
view of the type code where no valid one is held. -/
def Obligations.TypeOutputsFollowTheRegisters : Prop :=
  (∀ s : State, s.type_st = .valid →
    s.out.type_out = s.type_r ∧ s.out.type_st = 0b01 ∧ s.out.is_critical = !s.type_r[29] ∧
    s.out.is_public = !s.type_r[21] ∧ s.out.is_reserved_bit_valid = !s.type_r[13] ∧
    s.out.is_safe_to_copy = s.type_r[5] ∧
    s.heldType = some { raw := s.type_r, critical := !s.type_r[29], isPublic := !s.type_r[21],
                        reservedBitValid := !s.type_r[13], safeToCopy := s.type_r[5] }) ∧
  (∀ s : State, s.type_st ≠ .valid →
    s.out.type_out = 0x00000000 ∧ s.out.is_critical = false ∧ s.out.is_public = false ∧
    s.out.is_reserved_bit_valid = false ∧ s.out.is_safe_to_copy = false ∧ s.heldType = none) ∧
  (∀ s : State, s.Inv → s.out.type_out = s.type_r) ∧
  (∀ s : State, s.out.err_cmd = s.err_cmd ∧ (s.type_st = .empty → s.out.type_st = 0b00) ∧
    (s.type_st = .invalid → s.out.type_st = 0b10))

/-- 10_state.md R17: `crc_out` is the complement of `crc_r`, 0 after reset or `CRC_INIT`, and after any commands at all
the checksum of the bytes that `CRC_BYTE` and `CRC_TYPE` fed since the last initialisation. -/
def Obligations.CrcOutIsTheChecksumSoFar : Prop :=
  (∀ S : Regs, S.out.crc_out = ~~~ S.crc_r ∧ S.out.crc_out = S.crc_r ^^^ 0xFFFFFFFF) ∧
  State.reset.out.crc_out = 0x00000000 ∧
  (∀ s t : State, exec .crcInit s = .next t → t.out.crc_out = 0x00000000) ∧
  (∀ is : List Instr,
    ∃ T, runInstrs Regs.reset is = .next T ∧ T.out.crc_out = checksum (bytesFed none [] is)) ∧
  (∀ (S : Regs) (is : List Instr),
    ∃ T, runInstrs S (.crcInit :: is) = .next T ∧ T.out.crc_out = checksum (bytesFed S.heldWord [] is)) ∧
  (∀ (S : Regs) (before : List Byte) (is : List Instr), S.crc_r = crcRun 0xFFFFFFFF before →
    ∃ T, runInstrs S is = .next T ∧ T.out.crc_out = checksum (bytesFed S.heldWord before is))

/-! ### The CRC functions -/

/-- 40_crc.md R52 and R53: the 1-bit step, and the byte update as eight of them, bit 0 first. -/
def Obligations.ByteUpdateIsEightBitsteps : Prop :=
  (∀ (v : Word) (d : Bool), bitstep v d = if (v[0] ^^ d) = true then (v >>> 1) ^^^ 0xEDB88320 else v >>> 1) ∧
  (∀ (c : Word) (b : Byte), upd c b =
    bitstep (bitstep (bitstep (bitstep (bitstep (bitstep (bitstep (bitstep c b[0]) b[1]) b[2]) b[3]) b[4]) b[5])
      b[6]) b[7]) ∧
  (∀ v : Word, shift8 v =
    bitstep (bitstep (bitstep (bitstep (bitstep (bitstep (bitstep (bitstep v false) false) false) false) false) false)
      false) false) ∧
  upd 0xFFFFFFFF 0x61 = 0x174841BC

/-- Derived (40_crc.md, section 2, the table): the table by its formula, and the 256 listed entries, which the spec says it
computed from the formula, are its evaluation. -/
def Obligations.ListedTableIsTheFormula : Prop :=
  crcRom.length = 256 ∧ (∀ i : Byte, crcTable i = shift8 (i.setWidth 32) ∧ crcTable i = upd 0x00000000 i) ∧
  (∀ i : Byte, crcRom[i.toNat]? = some (shift8 (i.setWidth 32)))

/-- Derived (40_crc.md, section 2): the table-driven update, by formula or from the listed table, is the bit-serial one
for every running value and byte, so no result depends on IMPL. -/
def Obligations.TableUpdateEqualsBitSerialUpdate : Prop :=
  (∀ (c : Word) (b : Byte), updTab c b = upd c b ∧ updRom c b = upd c b) ∧
  (∀ (impl : Impl) (c : Word) (b : Byte), updBy impl c b = upd c b)

/-- Derived (10_state.md, section 3; 40_crc.md, section 2; log 14 is the model's own choice that the accepting edge does
the first `bitstep`, log 11 the number of cycles): after `n` more clocks the shift register holds the update by the
first `n + 1` bits, after seven or more it is done with `upd`; and the bit counter is the number of edges at which
`cmd_ready` is still 0. -/
def Obligations.EightClocksOfTheShiftRegisterAreOneUpdate : Prop :=
  ∀ (c : Word) (b : Byte),
    (∀ n ≤ 7, ((BitSerial.accept c b).clocks n).reg = ((byteBits b).take (n + 1)).foldl bitstep c ∧
      ((BitSerial.accept c b).clocks n).count = 7 - n) ∧
    (∀ n, 7 ≤ n → ((BitSerial.accept c b).clocks n).reg = upd c b ∧ ((BitSerial.accept c b).clocks n).count = 0) ∧
    (∀ (k : ClockState), k.cmdReady = true → k.waiting = none → k.regs.crc_r = c →
      ∃ k', clockEdge (Impl.expectedLatByte .bitSerial) (commandSample (encode (.crcByte b))) k = .next k' ∧
        k'.busy = (BitSerial.accept c b).count)

/-- 40_crc.md R57: the checksum function and the source's fixed vector. -/
def Obligations.ChecksumIsTheComplementedRun : Prop :=
  (∀ c : Word, crcRun c [] = c) ∧
  (∀ (c : Word) (b : Byte) (rest : List Byte), crcRun c (b :: rest) = crcRun (upd c b) rest) ∧
  (∀ bs : List Byte, checksum bs = ~~~ crcRun 0xFFFFFFFF bs ∧ checksum bs = crcRun 0xFFFFFFFF bs ^^^ 0xFFFFFFFF) ∧
  checksum [] = 0x00000000 ∧
  checksum [0x52, 0x75, 0x53, 0x74, 0x54, 0x68, 0x69, 0x73, 0x20, 0x69, 0x73, 0x20, 0x77, 0x68, 0x65, 0x72, 0x65, 0x20,
    0x79, 0x6F, 0x75, 0x72, 0x20, 0x73, 0x65, 0x63, 0x72, 0x65, 0x74, 0x20, 0x6D, 0x65, 0x73, 0x73, 0x61, 0x67, 0x65,
    0x20, 0x77, 0x69, 0x6C, 0x6C, 0x20, 0x62, 0x65, 0x21] = BitVec.ofNat 32 2882656334

/-- Derived (40_crc.md, section 2, the streaming law): a checksum may be computed in pieces. -/
def Obligations.RunningValueStreams : Prop :=
  ∀ (c : Word) (xs ys : List Byte), crcRun c (xs ++ ys) = crcRun (crcRun c xs) ys

/-- Derived (40_crc.md, section 2, and section 4, R66 (a) to (c)): the handier forms of the update, that `shift8` is
linear, that the top byte comes from the table alone, and that the checksum of one byte is one look-up. -/
def Obligations.UpdateIsLinear : Prop :=
  (∀ (c : Word) (b : Byte), upd c b = shift8 (c ^^^ b.setWidth 32) ∧ upd c b = upd (c ^^^ b.setWidth 32) 0x00) ∧
  (∀ c1 c2 : Word, shift8 (c1 ^^^ c2) = shift8 c1 ^^^ shift8 c2) ∧
  (∀ (c1 c2 : Word) (b1 b2 : Byte),
    upd c1 b1 ^^^ upd c2 b2 = shift8 ((c1 ^^^ b1.setWidth 32) ^^^ (c2 ^^^ b2.setWidth 32))) ∧
  (∀ (c : Word) (b : Byte),
    (upd c b).extractLsb' 24 8 = (crcTable ((c ^^^ b.setWidth 32).setWidth 8)).extractLsb' 24 8) ∧
  (∀ b : Byte, checksum [b] = ~~~ (crcTable (0xFF ^^^ b) ^^^ 0x00FFFFFF))

/-! ### Sequences -/

/-- Derived (40_crc.md, the sequence law of the CRC unit): from any state `CRC_INIT` and then bytes, with any `NOP`,
`TYPE_LOAD` and `TYPE_CLR` between them, end with the checksum of the bytes; from reset without the `CRC_INIT`, and with
no fault recorded. -/
def Obligations.InterleavedBytesGiveTheirChecksum : Prop :=
  (∀ (S : Regs) (is : List Instr), (∀ i ∈ is, interleaves i) →
    ∃ T, runInstrs S (.crcInit :: is) = .next T ∧ T.out.crc_out = checksum (fedBytes is) ∧ T.err_cmd = S.err_cmd) ∧
  (∀ (S : Regs) (is : List Instr), S.FromReset → (∀ i ∈ is, interleaves i) →
    ∃ T, runInstrs S is = .next T ∧ T.out.crc_out = checksum (fedBytes is) ∧ T.NoFault)

/-- Derived (40_crc.md, section 3): with a valid code held, `CRC_TYPE` is four `CRC_BYTE` commands. -/
def Obligations.CrcTypeIsFourCrcBytes : Prop :=
  ∀ S : Regs, S.TypeHeld →
    execRegs .crcType S = runInstrs S [.crcByte (bytePos0 S.type_r), .crcByte (bytePos1 S.type_r),
      .crcByte (bytePos2 S.type_r), .crcByte (bytePos3 S.type_r)]

/-- Derived (40_crc.md, the chunk-checksum law): from any state, the checksum of the type bytes and then the data. -/
def Obligations.ChunkSequenceGivesTheChunkChecksum : Prop :=
  ∀ (s : Regs) (w : Word) (ds : List Byte), validType w = true →
    ∃ t, runInstrs s (.typeLoad w :: .crcInit :: .crcType :: ds.map .crcByte) = .next t ∧
      t.out.crc_out = checksum (bytePos0 w :: bytePos1 w :: bytePos2 w :: bytePos3 w :: ds) ∧
      t.out.type_out = w ∧ t.err_cmd = s.err_cmd

/-- Derived (41_type.md, the sequence law of the type unit): what a `TYPE_LOAD` leaves on the outputs stays through any
commands but `TYPE_LOAD` and `TYPE_CLR`. -/
def Obligations.LoadedTypeStaysOnTheOutputs : Prop :=
  ∀ (s : Regs) (w : Word) (is : List Instr), (∀ i ∈ is, (∀ w', i ≠ .typeLoad w') ∧ i ≠ .typeClr) →
    ∃ t, runInstrs s (.typeLoad w :: is) = .next t ∧ (t.type_st = .valid ↔ validType w = true) ∧
      (validType w = true → t.out.type_out = w ∧ t.out.is_critical = critical w ∧ t.out.is_public = publicBit w ∧
        t.out.is_reserved_bit_valid = reservedBitValid w ∧ t.out.is_safe_to_copy = safeToCopy w)

/-- 70_reset_and_hazards.md R130: a type command next to a `CRC_BYTE` in either order, and `CRC_TYPE` directly after
`TYPE_LOAD`. -/
def Obligations.UnitsNeedNoSpacing : Prop :=
  (∀ (s : Regs) (b : Byte) (w : Word),
    ∃ t, runInstrs s [.crcByte b, .typeLoad w] = .next t ∧ runInstrs s [.typeLoad w, .crcByte b] = .next t) ∧
  (∀ (s : Regs) (b : Byte),
    ∃ t, runInstrs s [.crcByte b, .typeClr] = .next t ∧ runInstrs s [.typeClr, .crcByte b] = .next t) ∧
  (∀ (s : Regs) (w : Word), validType w = true →
    runInstrs s [.typeLoad w, .crcType] =
      .next { s with type_r := w, type_st := .valid, crc_r := crcRun s.crc_r (typeBytes w) })

/-! ### The type functions -/

/-- 41_type.md R70: the two ranges, and that 52 bytes are letters. -/
def Obligations.LettersAreTheFiftyTwoAsciiOnes : Prop :=
  (∀ b : Byte, isLetter b = true ↔
    (0x41 ≤ b.toNat ∧ b.toNat ≤ 0x5A) ∨ (0x61 ≤ b.toNat ∧ b.toNat ≤ 0x7A)) ∧
  ((List.range 256).filter fun n => isLetter (BitVec.ofNat 8 n)).length = 52

/-- Derived (41_type.md, section 1): the bit-level form of the letter test, and that bit 5 of a letter is its case. -/
def Obligations.LettersByTheirBits : Prop :=
  (∀ b : Byte, isLetter b = true ↔
    b[7] = false ∧ b[6] = true ∧ 1 ≤ (b.extractLsb' 0 5).toNat ∧ (b.extractLsb' 0 5).toNat ≤ 26) ∧
  (∀ b : Byte, isLetter b = true → (b[5] = false ↔ 0x41 ≤ b.toNat ∧ b.toNat ≤ 0x5A))

/-- 41_type.md R72 to R75: each flag is one bit test, the fourth of opposite polarity. -/
def Obligations.FlagsAreTheFourBitTests : Prop :=
  (∀ w : Word, (critical w = true ↔ w[29] = false) ∧ (publicBit w = true ↔ w[21] = false) ∧
    (reservedBitValid w = true ↔ w[13] = false) ∧ (safeToCopy w = true ↔ w[5] = true)) ∧
  (∀ w : Word, w[29] = (bytePos0 w)[5] ∧ w[21] = (bytePos1 w)[5] ∧ w[13] = (bytePos2 w)[5] ∧ w[5] = (bytePos3 w)[5]) ∧
  safeToCopy 0x52755374 = true ∧ safeToCopy 0x52755354 = false

/-- 41_type.md R76: `TypeDecode`, and all sixteen combinations of the flags occur among valid codes. -/
def Obligations.TypeDecodeGivesFourIndependentFlags : Prop :=
  (∀ w : Word, validType w = true → typeDecode w =
    some { raw := w, critical := critical w, isPublic := publicBit w, reservedBitValid := reservedBitValid w,
           safeToCopy := safeToCopy w }) ∧
  (∀ w : Word, validType w = false → typeDecode w = none) ∧
  (∀ a b c d : Bool, ∃ w, typeDecode w =
    some { raw := w, critical := a, isPublic := b, reservedBitValid := c, safeToCopy := d })

/-- Derived (41_type.md, section 3, the order of type codes): two type words are equal exactly when their bytes are, and
the unsigned order of the words is the lexicographic order of the bytes, position 0 first. -/
def Obligations.WordOrderIsByteOrder : Prop :=
  ∀ w w' : Word, (w = w' ↔ typeBytes w = typeBytes w') ∧ (w < w' ↔ List.Lex (· < ·) (typeBytes w) (typeBytes w'))

/-- Derived (41_type.md, section 3, `from_text` and `to_text`): a text of four letters, assembled as a `TYPE_LOAD`, reads
back from `type_out` as its four bytes. -/
def Obligations.FourLetterTextReadsBack : Prop :=
  ∀ (a b c d : Char) (s : State), (∀ x ∈ [a, b, c, d], asciiChar x = true ∧ isLetter (charByte x) = true) →
    ∃ w t, assemble { mnemonic := .typeLoad, operands := [.text [a, b, c, d]] } = some [.typeLoad w] ∧
      exec (.typeLoad w) s = .next t ∧ t.type_st = .valid ∧
      typeBytes t.out.type_out = [charByte a, charByte b, charByte c, charByte d]

/-! ### The clocked port -/

/-- Derived (70_reset_and_hazards.md, sections 3 and 4: the handshake and the cycle counts; log 11 is the model's own
choice that the new registers stand from the accepting edge on, and of an illegal `CRC_TYPE`'s cycles; log 15): of a host
that holds a waiting word, a word is accepted exactly when `rst = 0`, `cmd_valid = 1` and `cmd_ready = 1`; otherwise it
waits, and the registers hold, or are reset. -/
def Obligations.CommandsAreAcceptedByTheHandshake : Prop :=
  (∀ (lat : Nat) (p : PortSample) (k : ClockState), keepsWord k.waiting p = true → p.rst = false →
    p.cmd_valid = true → k.cmdReady = true →
    ∃ T, acceptWord p.cmd k.regs = .next T ∧
      clockEdge lat p k = .next { regs := T, busy := latency lat (decode p.cmd) - 1, waiting := none }) ∧
  (∀ (lat : Nat) (p : PortSample) (k : ClockState), keepsWord k.waiting p = true → p.rst = false → k.cmdReady = false →
    clockEdge lat p k = .next { regs := k.regs, busy := k.busy - 1,
                                waiting := if p.cmd_valid = true then some p.cmd else none }) ∧
  (∀ (lat : Nat) (p : PortSample) (k : ClockState), keepsWord k.waiting p = true → p.rst = false →
    p.cmd_valid = false → ∃ k', clockEdge lat p k = .next k' ∧ k'.regs = k.regs) ∧
  (∀ (lat : Nat) (p : PortSample) (k : ClockState), p.rst = true →
    clockEdge lat p k = .next { regs := Regs.reset, busy := 0, waiting := none }) ∧
  (∀ (s : State) (p : PortSample) (rest : List PortSample), s.port = p :: rest → p.rst = false → p.cmd_valid = false →
    step s = .next { s with port := rest })

/-- Derived (70_reset_and_hazards.md, section 5, the host's duties: the model "gives the host no move that breaks" one;
93_implementation_defined.md, entry U10; log 15): a sequence of edges completes when the host holds every waiting word,
and is refused, by name, when it changes or withdraws one. The duty, edge by edge: a word that waits is presented
again, or reset is asserted. -/
def Obligations.HostsThatDropAWaitingWordAreRefused : Prop :=
  (∀ (lat : Nat) (k : ClockState) (ps : List PortSample),
    (keepsDuty lat k.busy k.waiting ps = true → ∃ k', clockRun lat k ps = .next k') ∧
    (keepsDuty lat k.busy k.waiting ps = false → clockRun lat k ps = .refused .wordNotHeld)) ∧
  (∀ (cw : CommandWord) (p : PortSample),
    keepsWord (some cw) p = true ↔ p.rst = true ∨ (p.cmd_valid = true ∧ p.cmd = cw)) ∧
  (∀ (lat n : Nat) (cw : CommandWord) (p : PortSample) (S : Regs), p.rst = false → p.cmd_valid = false ∨ p.cmd ≠ cw →
    clockRun lat { regs := S, busy := n + 1, waiting := none } [commandSample cw, p] = .refused .wordNotHeld)

/-- Derived (70_reset_and_hazards.md, sections 3 and 4: that `cmd_ready` returns within a bound, and the bound; log 11 is
the model's own choice of an illegal `CRC_TYPE`'s cycles; log 15): whatever the command and the state, after the
accepting edge `cmd_ready` is 1 again when the command's cycles have passed, whatever a host that keeps its duty presents
meanwhile, and those are at most four LAT_BYTE. -/
def Obligations.CmdReadyReturns : Prop :=
  ∀ (lat : Nat), 0 < lat → ∀ (k : ClockState) (cw : CommandWord) (ps : List PortSample), k.cmdReady = true →
    k.waiting = none ∨ k.waiting = some cw →
    (∀ p ∈ ps, p.rst = false) → ps.length + 1 = latency lat (decode cw) →
    keepsDuty lat (latency lat (decode cw) - 1) none ps = true →
    latency lat (decode cw) ≤ 4 * lat ∧
    ∃ k', clockRun lat k (commandSample cw :: ps) = .next k' ∧ k'.cmdReady = true ∧
      acceptWord cw k.regs = .next k'.regs

/-- Derived (70_reset_and_hazards.md, section 3; log 7 is the model's own choice of `none`): outputs may be sampled only
while `cmd_ready = 1`; then they are `out(S)`. -/
def Obligations.OutputsAreSampledOnlyWhenReady : Prop :=
  ∀ k : ClockState, (k.cmdReady = true → k.outputs = some k.regs.out) ∧ (k.cmdReady = false → k.outputs = none)

/-- Derived (40_crc.md, section 4; 70_reset_and_hazards.md, section 4; log 11, log 15): a host that presents each word of
a list and waits until the block is ready again, idle meanwhile or (`early`) holding the next word already, gets the
registers of `runs`, whatever LAT_BYTE is. -/
def Obligations.ResultsDoNotDependOnLatency : Prop :=
  ∀ (lat : Nat), 0 < lat → ∀ (early : Bool) (cws : List CommandWord) (k : ClockState),
    k.cmdReady = true → k.waiting = none →
    ∃ k', clockRun lat k (hostEdges lat early cws) = .next k' ∧ k'.cmdReady = true ∧ runs k.regs cws = .next k'.regs

/-- Derived (20_memory.md, sections 3 and 4; log 2, log 15): the clocked block, under any samples of a host that holds
its waiting words, resets and idle edges among them, ends with the registers that `step` gives on the samples that have
an effect. -/
def Obligations.ClockedBlockRefinesTheStep : Prop :=
  ∀ (lat : Nat) (k : ClockState) (ps : List PortSample), keepsDuty lat k.busy k.waiting ps = true →
    ∃ k', clockRun lat k ps = .next k' ∧
      Host.Core.run core (effectiveSamples lat k.busy ps).length
        { toRegs := k.regs, port := effectiveSamples lat k.busy ps } = .next { toRegs := k'.regs, port := [] }

/-- Derived (40_crc.md, section 4, R66 (d); log 11, log 15): no result depends on IMPL, on LAT_BYTE, on how many `NOP`s
stand between the commands, or, in a sequence without `CRC_TYPE`, on what the type unit holds. -/
def Obligations.ResultsDependOnTheBytesAlone : Prop :=
  (∀ (impl : Impl) (c : Word) (bs : List Byte), crcRunBy impl c bs = crcRun c bs ∧ checksumBy impl bs = checksum bs) ∧
  (∀ (lat lat' : Nat), 0 < lat → 0 < lat' → ∀ (early early' : Bool) (S : Regs) (cws : List CommandWord), ∃ k k',
    clockRun lat { regs := S, busy := 0, waiting := none } (hostEdges lat early cws) = .next k ∧
    clockRun lat' { regs := S, busy := 0, waiting := none } (hostEdges lat' early' cws) = .next k' ∧
    k.outputs = k'.outputs ∧ ∃ o, k.outputs = some o) ∧
  (∀ (S : Regs) (is : List Instr), ∃ T, runInstrs S is = .next T ∧ runInstrs S (withoutNops is) = .next T) ∧
  (∀ (S S' : Regs) (is : List Instr), S.crc_r = S'.crc_r → .crcType ∉ is →
    ∃ T T', runInstrs S is = .next T ∧ runInstrs S' is = .next T' ∧ T.out.crc_out = T'.out.crc_out)

/-! ### The assembler -/

/-- 30_encoding.md R47: the three pseudo-commands, their expansions, and the result on `crc_out`. -/
def Obligations.PseudoCommandsExpand : Prop :=
  (∀ bs : List Byte, assemble { mnemonic := .crcBytes, operands := bs.map fun b => .number b.toNat } =
    some (bs.map .crcByte)) ∧
  (∀ cs : List Char, (∀ c ∈ cs, asciiChar c = true) →
    assemble { mnemonic := .crcBytes, operands := [.text cs] } = some (cs.map fun c => .crcByte (charByte c))) ∧
  assemble { mnemonic := .crcBytes, operands := [] } = some [] ∧
  (∀ (bs : List Byte) (S : Regs), ∃ is T,
    assemble { mnemonic := .checksum, operands := bs.map fun b => .number b.toNat } = some is ∧
    is = .crcInit :: bs.map .crcByte ∧ runInstrs S is = .next T ∧ T.out.crc_out = checksum bs) ∧
  (∀ (a b c d : Char) (ds : List Byte) (S : Regs), (∀ x ∈ [a, b, c, d], asciiChar x = true) → ∃ is T,
    assemble { mnemonic := .chunkCrc, operands := .text [a, b, c, d] :: ds.map fun x => .number x.toNat } = some is ∧
    is = .typeLoad (wordOfBytes (charByte a) (charByte b) (charByte c) (charByte d)) :: .crcInit :: .crcType ::
      ds.map .crcByte ∧
    runInstrs S is = .next T ∧
    ((∀ x ∈ [a, b, c, d], isLetter (charByte x) = true) →
      T.out.crc_out = checksum (charByte a :: charByte b :: charByte c :: charByte d :: ds)))

/-- Derived (30_encoding.md, section 3; 95_test_vectors.md, programs P1 and P2; log 12 is the model's own choice of the
operand forms of the three pseudo-commands): byte operands may be numbers or character literals, mixed, each its own
byte; `CHECKSUM` and `CHUNK_CRC` may take one text literal for their bytes, as `CRC_BYTES` may; a text literal beside
other byte operands is rejected. -/
def Obligations.PseudoCommandsTakeCharactersAndTexts : Prop :=
  (∀ n : Nat, (AsmOperand.number n).isByte = decide (n ≤ 255) ∧ operandBytes (.number n) = [BitVec.ofNat 8 n]) ∧
  (∀ c : Char, (AsmOperand.char c).isByte = asciiChar c ∧ operandBytes (.char c) = [BitVec.ofNat 8 c.toNat]) ∧
  (∀ (ops : List AsmOperand) (S : Regs), (∀ o ∈ ops, o.isByte = true) →
    assemble { mnemonic := .crcBytes, operands := ops } = some ((ops.flatMap operandBytes).map .crcByte) ∧
    ∃ is T, assemble { mnemonic := .checksum, operands := ops } = some is ∧
      is = .crcInit :: (ops.flatMap operandBytes).map .crcByte ∧ runInstrs S is = .next T ∧
      T.out.crc_out = checksum (ops.flatMap operandBytes)) ∧
  (∀ (cs : List Char) (S : Regs), (∀ c ∈ cs, asciiChar c = true) → ∃ is T,
    assemble { mnemonic := .checksum, operands := [.text cs] } = some is ∧
    is = .crcInit :: (cs.map charByte).map .crcByte ∧ runInstrs S is = .next T ∧
    T.out.crc_out = checksum (cs.map charByte)) ∧
  (∀ (a b c d : Char) (ops : List AsmOperand) (ds : List Byte) (S : Regs),
    (∀ x ∈ [a, b, c, d], asciiChar x = true) →
    ((∀ o ∈ ops, o.isByte = true) ∧ ds = ops.flatMap operandBytes) ∨
      (∃ cs, (∀ x ∈ cs, asciiChar x = true) ∧ ops = [.text cs] ∧ ds = cs.map charByte) →
    ∃ is T, assemble { mnemonic := .chunkCrc, operands := .text [a, b, c, d] :: ops } = some is ∧
      is = .typeLoad (wordOfBytes (charByte a) (charByte b) (charByte c) (charByte d)) :: .crcInit :: .crcType ::
        ds.map .crcByte ∧
      runInstrs S is = .next T ∧
      ((∀ x ∈ [a, b, c, d], isLetter (charByte x) = true) →
        T.out.crc_out = checksum (charByte a :: charByte b :: charByte c :: charByte d :: ds))) ∧
  (∀ (cs type : List Char) (ops : List AsmOperand), .text cs ∈ ops → ops.length ≠ 1 →
    assemble { mnemonic := .crcBytes, operands := ops } = none ∧
    assemble { mnemonic := .checksum, operands := ops } = none ∧
    assemble { mnemonic := .chunkCrc, operands := .text type :: ops } = none)

/-- Derived (30_encoding.md, section 3; log 12 is the model's own choice on the text): a number operand is taken as it
stands within its range and rejected outside it, a character literal is its ASCII byte, a second operand is rejected,
and a `;` outside a literal starts a comment: after any line whose text up to there is a sequence of tokens, literals
among them, it and what follows change nothing. -/
def Obligations.AssemblerOperandsAndComments : Prop :=
  (∀ n : Nat, assemble { mnemonic := .crcByte, operands := [.number n] } =
    if n ≤ 255 then some [.crcByte (BitVec.ofNat 8 n)] else none) ∧
  (∀ n : Nat, assemble { mnemonic := .typeLoad, operands := [.number n] } =
    if n < 2 ^ 32 then some [.typeLoad (BitVec.ofNat 32 n)] else none) ∧
  (∀ c : Char, assemble { mnemonic := .crcByte, operands := [.char c] } =
    if asciiChar c = true then some [.crcByte (charByte c)] else none) ∧
  (∀ o o' : AsmOperand, assemble { mnemonic := .crcByte, operands := [o, o'] } = none ∧
    assemble { mnemonic := .typeLoad, operands := [o, o'] } = none ∧
    assemble { mnemonic := .nop, operands := [o] } = none) ∧
  (∀ (line comment : List Char) (ts : List Token), lex .between line = some ts →
    assembleText (line ++ ';' :: comment) = assembleText line)
end

