-- ==== Sys2Proof/Laws/Checksum.lean ====
section
/-! SUPPORT. The 1-bit step is linear over exclusive-or; the small lemmas of `crcRun`. -/

namespace Sys2Proof.Machine

/-- The two cases of the 1-bit step, by the feedback bit. -/
theorem bitstep_of_feedback {c : Word} {d : Bool} (h : (c.getLsbD 0 ^^ d) = true) :
    bitstep c d = (c >>> 1) ^^^ crcPoly := by
  simp only [bitstep, h, if_true]

theorem bitstep_of_no_feedback {c : Word} {d : Bool} (h : (c.getLsbD 0 ^^ d) = false) : bitstep c d = c >>> 1 := by
  simp only [bitstep, h, Bool.false_eq_true, if_false]

/-- The 1-bit step distributes over exclusive-or of registers and of data bits. -/
theorem bitstep_xor (c c' : Word) (d d' : Bool) :
    bitstep (c ^^^ c') (d ^^ d') = bitstep c d ^^^ bitstep c' d' := by
  have hsh : (c ^^^ c') >>> 1 = c >>> 1 ^^^ c' >>> 1 := BitVec.ushiftRight_xor_distrib c c' 1
  have hbit : ((c ^^^ c').getLsbD 0 ^^ (d ^^ d')) = ((c.getLsbD 0 ^^ d) ^^ (c'.getLsbD 0 ^^ d')) := by
    rw [BitVec.getLsbD_xor]
    cases c.getLsbD 0 <;> cases c'.getLsbD 0 <;> cases d <;> cases d' <;> rfl
  have e4 : ∀ a b p : Word, a ^^^ b = (a ^^^ p) ^^^ (b ^^^ p) := fun a b p => by
    rw [BitVec.xor_comm b p, BitVec.xor_assoc, ← BitVec.xor_assoc p p b, BitVec.xor_self, BitVec.zero_xor]
  cases h : (c.getLsbD 0 ^^ d) <;> cases h' : (c'.getLsbD 0 ^^ d')
  · rw [bitstep_of_no_feedback h, bitstep_of_no_feedback h', bitstep_of_no_feedback (by rw [hbit, h, h']; rfl), hsh]
  · rw [bitstep_of_no_feedback h, bitstep_of_feedback h', bitstep_of_feedback (by rw [hbit, h, h']; rfl), hsh,
      BitVec.xor_assoc]
  · rw [bitstep_of_feedback h, bitstep_of_no_feedback h', bitstep_of_feedback (by rw [hbit, h, h']; rfl), hsh,
      BitVec.xor_assoc, BitVec.xor_assoc, BitVec.xor_comm crcPoly]
  · rw [bitstep_of_feedback h, bitstep_of_feedback h', bitstep_of_no_feedback (by rw [hbit, h, h']; rfl), hsh]
    exact e4 _ _ _

/-- A register of zeros and a data bit of zero stay zero. -/
@[simp] theorem bitstep_zero_false : bitstep 0 false = 0 := by decide

@[simp] theorem crcRun_nil (c : Word) : crcRun c [] = c := rfl

@[simp] theorem crcRun_cons (c : Word) (b : Byte) (bs : List Byte) : crcRun c (b :: bs) = crcRun (upd c b) bs := rfl

@[simp] theorem crcRunBy_nil (impl : Impl) (c : Word) : crcRunBy impl c [] = c := rfl

@[simp] theorem crcRunBy_cons (impl : Impl) (c : Word) (b : Byte) (bs : List Byte) :
    crcRunBy impl c (b :: bs) = crcRunBy impl (updBy impl c b) bs := rfl

end Sys2Proof.Machine
end

