-- ==== Sys2Proof/Laws/Clock.lean ====
section
/-! SUPPORT. The cases of one clock edge, and a sequence of edges. -/

namespace Sys2Proof.Machine

theorem cmdReady_iff {k : ClockState} : k.cmdReady = true ↔ k.busy = 0 := by
  simp [ClockState.cmdReady]

@[simp] theorem keepsWord_none (p : PortSample) : keepsWord none p = true := rfl

/-- A word that waits is kept by a reset edge, or by presenting it again. -/
theorem keepsWord_some_iff {cw : CommandWord} {p : PortSample} :
    keepsWord (some cw) p = true ↔ p.rst = true ∨ (p.cmd_valid = true ∧ p.cmd = cw) := by
  simp [keepsWord]

theorem clockEdge_reset {p : PortSample} (h : p.rst = true) (lat : Nat) (k : ClockState) :
    clockEdge lat p k = .next { regs := Regs.reset, busy := 0, waiting := none } := by
  simp only [clockEdge, h, if_true]

theorem clockEdge_not_held {p : PortSample} {k : ClockState} (hr : p.rst = false)
    (hw : keepsWord k.waiting p = false) (lat : Nat) : clockEdge lat p k = .refused .wordNotHeld := by
  simp [clockEdge, hr, hw]

theorem clockEdge_accept {p : PortSample} {k : ClockState} {S : Regs} (hr : p.rst = false)
    (hw : keepsWord k.waiting p = true) (hv : p.cmd_valid = true) (hk : k.busy = 0)
    (hS : acceptWord p.cmd k.regs = .next S) (lat : Nat) :
    clockEdge lat p k = .next { regs := S, busy := latency lat (decode p.cmd) - 1, waiting := none } := by
  simp [clockEdge, hr, hw, hv, hk, hS]

theorem clockEdge_idle {p : PortSample} {k : ClockState} (hr : p.rst = false)
    (hw : keepsWord k.waiting p = true) (hv : p.cmd_valid = false) (hk : k.busy = 0) (lat : Nat) :
    clockEdge lat p k = .next k := by
  simp [clockEdge, hr, hw, hv, hk]

theorem clockEdge_busy {p : PortSample} {k : ClockState} (hr : p.rst = false)
    (hw : keepsWord k.waiting p = true) (hk : k.busy ≠ 0) (lat : Nat) :
    clockEdge lat p k = .next { k with busy := k.busy - 1, waiting := waitingWord p } := by
  simp [clockEdge, hr, hw, hk]

/-- The first edge of a sequence, when it answers a next state. -/
theorem clockRun_cons_of_next {lat : Nat} {k k' : ClockState} {p : PortSample} (ps : List PortSample)
    (h : clockEdge lat p k = .next k') : clockRun lat k (p :: ps) = clockRun lat k' ps := by
  simp only [clockRun, h]

end Sys2Proof.Machine
end

