-- ==== Sys2Proof/Laws/Decode.lean ====
section
/-! SUPPORT. The fields of a command word, and what decoding depends on. -/

namespace Sys2Proof

theorem toNat_opcodeField (cw : CommandWord) : (opcodeField cw).toNat = cw.toNat / 2 ^ 32 := by
  have := cw.isLt
  simp only [opcodeField, BitVec.extractLsb'_toNat, Nat.shiftRight_eq_div_pow]
  omega

theorem toNat_dataField (cw : CommandWord) : (dataField cw).toNat = cw.toNat % 2 ^ 32 := by
  simp [dataField, BitVec.extractLsb'_toNat]

theorem toNat_byteField (cw : CommandWord) : (byteField cw).toNat = cw.toNat % 2 ^ 8 := by
  simp [byteField, BitVec.extractLsb'_toNat]

theorem toNat_commandWord (op : BitVec 4) (d : Word) :
    (commandWord op d).toNat = op.toNat * 2 ^ 32 + d.toNat := by
  have h : (op ++ d).toNat = op.toNat <<< 32 ||| d.toNat := BitVec.toNat_append op d
  rw [← Nat.shiftLeft_add_eq_or_of_lt d.isLt, Nat.shiftLeft_eq] at h
  exact h

@[simp] theorem opcodeField_commandWord (op : BitVec 4) (d : Word) : opcodeField (commandWord op d) = op := by
  apply BitVec.eq_of_toNat_eq
  have := d.isLt
  rw [toNat_opcodeField, toNat_commandWord]
  omega

@[simp] theorem dataField_commandWord (op : BitVec 4) (d : Word) : dataField (commandWord op d) = d := by
  apply BitVec.eq_of_toNat_eq
  have := d.isLt
  rw [toNat_dataField, toNat_commandWord]
  omega

/-- A command word is its two fields. -/
theorem commandWord_fields (cw : CommandWord) : commandWord (opcodeField cw) (dataField cw) = cw := by
  apply BitVec.eq_of_toNat_eq
  rw [toNat_commandWord, toNat_opcodeField, toNat_dataField]
  omega

/-- The byte operand is the low byte of `data`. -/
theorem byteField_eq_dataField (cw : CommandWord) : byteField cw = (dataField cw).setWidth 8 := by
  apply BitVec.eq_of_toNat_eq
  rw [toNat_byteField, BitVec.toNat_setWidth, toNat_dataField]
  omega

@[simp] theorem byteField_commandWord (op : BitVec 4) (d : Word) : byteField (commandWord op d) = d.setWidth 8 := by
  rw [byteField_eq_dataField, dataField_commandWord]

/-- Masking a word with the opcode's mask leaves its opcode, in place. -/
theorem toNat_and_opcodeMask (cw : CommandWord) :
    (cw &&& 0xF00000000).toNat = cw.toNat / 2 ^ 32 * 2 ^ 32 := by
  have h := cw.isLt
  have hm : (0xF00000000 : Nat) = (2 ^ 4 - 1) <<< 32 := by decide
  rw [BitVec.toNat_and, show (0xF00000000 : CommandWord).toNat = (2 ^ 4 - 1) <<< 32 from hm]
  apply Nat.eq_of_testBit_eq
  intro i
  simp only [Nat.testBit_and, Nat.testBit_shiftLeft, Nat.testBit_mul_two_pow, Nat.testBit_div_two_pow,
    Nat.testBit_two_pow_sub_one]
  by_cases hi : 32 ≤ i
  · by_cases h4 : i - 32 < 4
    · simp [hi, h4]
    · have : cw.toNat.testBit i = false :=
        Nat.testBit_lt_two_pow (lt_of_lt_of_le h (Nat.pow_le_pow_right (by decide) (by omega)))
      simp [hi, this]
  · simp [hi]

/-- The table's mask and match select the words of one opcode; `m` is the match, `k` the opcode. -/
theorem and_opcodeMask_eq_iff {cw : CommandWord} (k : BitVec 4) {m : CommandWord} (hm : m.toNat = k.toNat * 2 ^ 32) :
    cw &&& 0xF00000000 = m ↔ opcodeField cw = k := by
  constructor
  · intro h
    apply BitVec.eq_of_toNat_eq
    have h := congrArg BitVec.toNat h
    rw [toNat_and_opcodeMask, hm] at h
    rw [toNat_opcodeField]
    omega
  · intro h
    apply BitVec.eq_of_toNat_eq
    rw [toNat_and_opcodeMask, hm, ← h, toNat_opcodeField]

/-- Decoding by opcode: with `h : opcodeField cw = 3` the right side computes. -/
theorem decode_of_opcode {cw : CommandWord} {k : BitVec 4} (h : opcodeField cw = k) :
    decode cw = decodeFields k (byteField cw) (dataField cw) := by
  rw [← h]
  rfl

/-- Decoding uses a word through its opcode and, for two opcodes, its operand. -/
theorem decodeFields_congr {op : BitVec 4} {b b' : Byte} {w w' : Word} (hb : op = 2 → b = b') (hw : op = 4 → w = w') :
    decodeFields op b w = decodeFields op b' w' := by
  by_cases h2 : op = 2
  · subst h2
    exact congrArg Instr.crcByte (hb rfl)
  by_cases h4 : op = 4
  · subst h4
    exact congrArg Instr.typeLoad (hw rfl)
  · have h2' : op.toNat ≠ 2 := fun h => h2 (BitVec.eq_of_toNat_eq h)
    have h4' : op.toNat ≠ 4 := fun h => h4 (BitVec.eq_of_toNat_eq h)
    unfold decodeFields
    split <;> first | rfl | contradiction

/-- Two words with the same opcode, and the same operand where there is one, decode alike. -/
theorem decode_congr {cw cw' : CommandWord} (hop : opcodeField cw = opcodeField cw')
    (hb : opcodeField cw = 2 → byteField cw = byteField cw')
    (hw : opcodeField cw = 4 → dataField cw = dataField cw') : decode cw = decode cw' := by
  unfold decode
  rw [← hop]
  exact decodeFields_congr hb hw

/-- A decoded instruction has the opcode it was decoded from. -/
theorem opcode_decodeFields (op : BitVec 4) (b : Byte) (w : Word) : (decodeFields op b w).opcode = op := by
  have h := op.isLt
  apply BitVec.eq_of_toNat_eq
  unfold decodeFields
  split <;> simp_all [Instr.opcode]
  omega

@[simp] theorem opcode_decode (cw : CommandWord) : (decode cw).opcode = opcodeField cw := opcode_decodeFields _ _ _

/-- A number of at most 36 bits is a command word of the opcode table. -/
theorem tableWord_of_lt {nbits w : Nat} (hn : 36 ≤ nbits) (hw : w < 2 ^ 36) :
    tableWord nbits w = some (BitVec.ofNat 36 w) := by
  have h : w % 2 ^ nbits = w := Nat.mod_eq_of_lt (lt_of_lt_of_le hw (Nat.pow_le_pow_right (by decide) hn))
  simp only [tableWord, h, if_pos hw]

end Sys2Proof
end

