-- ==== Sys2Proof/Laws/State.lean ====
section
/-! SUPPORT. One lemma per register and update, so that no proof unfolds a record update. -/

namespace Sys2Proof.Machine

variable (s : State) (S : Regs)

@[simp] theorem writeCrc_crc_r (v : Word) : (s.writeCrc v).crc_r = v := rfl
@[simp] theorem writeCrc_type_r (v : Word) : (s.writeCrc v).type_r = s.type_r := rfl
@[simp] theorem writeCrc_type_st (v : Word) : (s.writeCrc v).type_st = s.type_st := rfl
@[simp] theorem writeCrc_err_cmd (v : Word) : (s.writeCrc v).err_cmd = s.err_cmd := rfl
@[simp] theorem writeCrc_port (v : Word) : (s.writeCrc v).port = s.port := rfl

@[simp] theorem writeType_crc_r (w : Word) (t : TypeSt) : (s.writeType w t).crc_r = s.crc_r := rfl
@[simp] theorem writeType_type_r (w : Word) (t : TypeSt) : (s.writeType w t).type_r = w := rfl
@[simp] theorem writeType_type_st (w : Word) (t : TypeSt) : (s.writeType w t).type_st = t := rfl
@[simp] theorem writeType_err_cmd (w : Word) (t : TypeSt) : (s.writeType w t).err_cmd = s.err_cmd := rfl
@[simp] theorem writeType_port (w : Word) (t : TypeSt) : (s.writeType w t).port = s.port := rfl

@[simp] theorem feed_crc_r (bs : List Byte) : (s.feed bs).crc_r = crcRun s.crc_r bs := rfl
@[simp] theorem feed_type_r (bs : List Byte) : (s.feed bs).type_r = s.type_r := rfl
@[simp] theorem feed_type_st (bs : List Byte) : (s.feed bs).type_st = s.type_st := rfl
@[simp] theorem feed_err_cmd (bs : List Byte) : (s.feed bs).err_cmd = s.err_cmd := rfl
@[simp] theorem feed_port (bs : List Byte) : (s.feed bs).port = s.port := rfl

@[simp] theorem raiseIllegalCommand_crc_r : s.raiseIllegalCommand.crc_r = s.crc_r := rfl
@[simp] theorem raiseIllegalCommand_type_r : s.raiseIllegalCommand.type_r = s.type_r := rfl
@[simp] theorem raiseIllegalCommand_type_st : s.raiseIllegalCommand.type_st = s.type_st := rfl
@[simp] theorem raiseIllegalCommand_err_cmd : s.raiseIllegalCommand.err_cmd = true := rfl
@[simp] theorem raiseIllegalCommand_port : s.raiseIllegalCommand.port = s.port := rfl

@[simp] theorem raiseInvalidChunkType_crc_r : s.raiseInvalidChunkType.crc_r = s.crc_r := rfl
@[simp] theorem raiseInvalidChunkType_type_r : s.raiseInvalidChunkType.type_r = 0 := rfl
@[simp] theorem raiseInvalidChunkType_type_st : s.raiseInvalidChunkType.type_st = .invalid := rfl
@[simp] theorem raiseInvalidChunkType_err_cmd : s.raiseInvalidChunkType.err_cmd = s.err_cmd := rfl
@[simp] theorem raiseInvalidChunkType_port : s.raiseInvalidChunkType.port = s.port := rfl

@[simp] theorem withPort_crc_r (p : List PortSample) : (s.withPort p).crc_r = s.crc_r := rfl
@[simp] theorem withPort_type_r (p : List PortSample) : (s.withPort p).type_r = s.type_r := rfl
@[simp] theorem withPort_type_st (p : List PortSample) : (s.withPort p).type_st = s.type_st := rfl
@[simp] theorem withPort_err_cmd (p : List PortSample) : (s.withPort p).err_cmd = s.err_cmd := rfl
@[simp] theorem withPort_port (p : List PortSample) : (s.withPort p).port = p := rfl
@[simp] theorem withPort_toRegs (p : List PortSample) : (s.withPort p).toRegs = s.toRegs := rfl
@[simp] theorem withPort_withPort (p q : List PortSample) : (s.withPort p).withPort q = s.withPort q := rfl
@[simp] theorem withPort_self : s.withPort s.port = s := rfl

@[simp] theorem resetRegisters_toRegs : s.resetRegisters.toRegs = Regs.reset := rfl
@[simp] theorem resetRegisters_crc_r : s.resetRegisters.crc_r = 0xFFFFFFFF := rfl
@[simp] theorem resetRegisters_type_r : s.resetRegisters.type_r = 0 := rfl
@[simp] theorem resetRegisters_type_st : s.resetRegisters.type_st = .empty := rfl
@[simp] theorem resetRegisters_err_cmd : s.resetRegisters.err_cmd = false := rfl
@[simp] theorem resetRegisters_port : s.resetRegisters.port = s.port := rfl

@[simp] theorem reset_toRegs : State.reset.toRegs = Regs.reset := rfl
@[simp] theorem regsReset_crc_r : Regs.reset.crc_r = 0xFFFFFFFF := rfl
@[simp] theorem regsReset_type_r : Regs.reset.type_r = 0 := rfl
@[simp] theorem regsReset_type_st : Regs.reset.type_st = .empty := rfl
@[simp] theorem regsReset_err_cmd : Regs.reset.err_cmd = false := rfl

@[simp] theorem out_crc_out : S.out.crc_out = ~~~ S.crc_r := rfl
@[simp] theorem out_type_out : S.out.type_out = S.typeOut := rfl
@[simp] theorem out_type_st : S.out.type_st = S.type_st.code := rfl
@[simp] theorem out_err_cmd : S.out.err_cmd = S.err_cmd := rfl

theorem typeOut_of_valid {S : Regs} (h : S.type_st = .valid) : S.typeOut = S.type_r := by
  simp only [Regs.typeOut, if_pos h]

theorem typeOut_of_not_valid {S : Regs} (h : S.type_st ≠ .valid) : S.typeOut = 0 := by
  simp only [Regs.typeOut, if_neg h]

/-- Register files are equal when their four registers are. -/
theorem Regs.eq_of_fields {S T : Regs} (hc : S.crc_r = T.crc_r) (hw : S.type_r = T.type_r)
    (ht : S.type_st = T.type_st) (he : S.err_cmd = T.err_cmd) : S = T := by
  cases S
  cases T
  simp_all

/-- States are equal when their registers and their samples to come are. -/
theorem State.eq_of_toRegs {s t : State} (hr : s.toRegs = t.toRegs) (hp : s.port = t.port) : s = t := by
  cases s
  cases t
  simp_all

end Sys2Proof.Machine
end

