-- ==== Sys2Proof/Laws/Exec.lean ====
section
/-! SUPPORT. What one command, one edge and a run can do, said once. -/

namespace Sys2Proof.Machine

/-- Everything a command can do: the command and the next state, case by case. -/
theorem exec_cases {i : Instr} {s t : State} (h : exec i s = .next t) :
    (i = .nop ∧ t = s) ∨ (i = .crcInit ∧ t = s.writeCrc crcInitValue) ∨
    (∃ b, i = .crcByte b ∧ t = s.writeCrc (upd s.crc_r b)) ∨
    (i = .crcType ∧ s.type_st = .valid ∧ t = s.feed (typeBytes s.type_r)) ∨
    (i = .crcType ∧ s.type_st ≠ .valid ∧ t = s.raiseIllegalCommand) ∨
    (∃ w, i = .typeLoad w ∧ validType w = true ∧ t = s.writeType w .valid) ∨
    (∃ w, i = .typeLoad w ∧ validType w = false ∧ t = s.raiseInvalidChunkType) ∨
    (i = .typeClr ∧ t = s.writeType 0 .empty) ∨ (i.isReserved = true ∧ t = s.raiseIllegalCommand) := by
  cases i with
  | crcType =>
    by_cases hv : s.type_st = .valid
    · simp only [exec, execCrcType, if_pos hv, Host.Outcome.next.injEq] at h
      simp [hv, h]
    · simp only [exec, execCrcType, if_neg hv, Host.Outcome.next.injEq] at h
      simp [hv, h]
  | typeLoad w =>
    by_cases hv : validType w = true
    · simp only [exec, execTypeLoad, if_pos hv, Host.Outcome.next.injEq] at h
      simp [hv, h]
    · simp only [exec, execTypeLoad, if_neg hv, Host.Outcome.next.injEq] at h
      simp [hv, h]
  | _ =>
    injection h with h
    subst h
    simp [Instr.isReserved, Instr.opcode]

/-- A command reads and writes the registers only, and keeps the samples to come: the step of the state from the step
of any state with the same registers. -/
theorem exec_of_toRegs_eq {i : Instr} {s s' t : State} (h : exec i s = .next t) (hs : s'.toRegs = s.toRegs) :
    exec i s' = .next { toRegs := t.toRegs, port := s'.port } := by
  obtain ⟨S, p⟩ := s
  obtain ⟨S', p'⟩ := s'
  obtain rfl : S' = S := hs
  cases i with
  | crcType =>
    by_cases hv : S'.type_st = .valid
    · simp only [exec, execCrcType, if_pos hv, Host.Outcome.next.injEq] at h ⊢
      rw [← h]
      rfl
    · simp only [exec, execCrcType, if_neg hv, Host.Outcome.next.injEq] at h ⊢
      rw [← h]
      rfl
  | typeLoad w =>
    by_cases hv : validType w = true
    · simp only [exec, execTypeLoad, if_pos hv, Host.Outcome.next.injEq] at h ⊢
      rw [← h]
      rfl
    · simp only [exec, execTypeLoad, if_neg hv, Host.Outcome.next.injEq] at h ⊢
      rw [← h]
      rfl
  | _ =>
    injection h with h
    subst h
    rfl

/-- The step on the registers, from the step of any state that has them. -/
theorem execRegs_of_exec {i : Instr} {s t : State} (h : exec i s = .next t) :
    execRegs i s.toRegs = .next t.toRegs := by
  simp only [execRegs, exec_of_toRegs_eq (s' := { toRegs := s.toRegs, port := [] }) h rfl]

/-- A step on the registers is a step of every state that has them, and keeps the samples to come. -/
theorem exec_of_execRegs {i : Instr} {S T : Regs} (h : execRegs i S = .next T) (p : List PortSample) :
    exec i { toRegs := S, port := p } = .next { toRegs := T, port := p } := by
  unfold execRegs at h
  split at h
  · rename_i ht
    injection h with h
    exact h ▸ exec_of_toRegs_eq ht rfl
  · simp at h
  · simp at h

/-- Everything a command can do to the registers: the command and the next registers, case by case. -/
theorem execRegs_cases {i : Instr} {S T : Regs} (h : execRegs i S = .next T) :
    (i = .nop ∧ T = S) ∨ (i = .crcInit ∧ T = { S with crc_r := crcInitValue }) ∨
    (∃ b, i = .crcByte b ∧ T = { S with crc_r := upd S.crc_r b }) ∨
    (i = .crcType ∧ S.type_st = .valid ∧ T = { S with crc_r := crcRun S.crc_r (typeBytes S.type_r) }) ∨
    (i = .crcType ∧ S.type_st ≠ .valid ∧ T = { S with err_cmd := true }) ∨
    (∃ w, i = .typeLoad w ∧ validType w = true ∧ T = { S with type_r := w, type_st := .valid }) ∨
    (∃ w, i = .typeLoad w ∧ validType w = false ∧ T = { S with type_r := 0, type_st := .invalid }) ∨
    (i = .typeClr ∧ T = { S with type_r := 0, type_st := .empty }) ∨
    (i.isReserved = true ∧ T = { S with err_cmd := true }) := by
  simpa [State.writeCrc, State.writeType, State.feed, State.raiseIllegalCommand, State.raiseInvalidChunkType]
    using exec_cases (exec_of_execRegs h [])

@[simp] theorem runInstrs_nil (S : Regs) : runInstrs S [] = .next S := rfl

/-- The first command of a run, when it answers next registers. -/
theorem runInstrs_cons_of_next {S S' : Regs} {i : Instr} (is : List Instr) (h : execRegs i S = .next S') :
    runInstrs S (i :: is) = runInstrs S' is := by
  simp only [runInstrs, h]

/-- A run in two parts. -/
theorem runInstrs_append_of_next {S S' : Regs} {is : List Instr} (js : List Instr) (h : runInstrs S is = .next S') :
    runInstrs S (is ++ js) = runInstrs S' js := by
  induction is generalizing S with
  | nil =>
    injection h with h
    exact h ▸ rfl
  | cons i is ih =>
    cases hi : execRegs i S with
    | next m =>
      rw [runInstrs_cons_of_next _ hi] at h
      rw [List.cons_append, runInstrs_cons_of_next _ hi, ih h]
    | fault r => nomatch r
    | refused r => simp [runInstrs, hi] at h

theorem heldWord_of_valid {S : Regs} (h : S.type_st = .valid) : S.heldWord = some S.type_r := by
  simp [Regs.heldWord, Regs.heldType, typeCode, h]

theorem heldWord_of_not_valid {S : Regs} (h : S.type_st ≠ .valid) : S.heldWord = none := by
  simp [Regs.heldWord, Regs.heldType, h]

/-- A reserved command feeds no byte and changes no held code. -/
theorem bytesFed_of_isReserved {i : Instr} (h : i.isReserved = true) (held : Option Word) (acc : List Byte)
    (is : List Instr) : bytesFed held acc (i :: is) = bytesFed held acc is := by
  cases i <;> first | rfl | exact absurd h (by decide) | exact absurd h (by simp [Instr.isReserved, Instr.opcode])

theorem edge_reset {p : PortSample} (h : p.rst = true) (s : State) : edge p s = .next s.resetRegisters := by
  simp only [edge, h, if_true]

theorem edge_idle {p : PortSample} (hr : p.rst = false) (hv : p.cmd_valid = false) (s : State) :
    edge p s = .next s := by
  simp [edge, hr, hv]

theorem edge_command {p : PortSample} (hr : p.rst = false) (hv : p.cmd_valid = true) (s : State) :
    edge p s = execWord p.cmd s := by
  simp [edge, hr, hv]

theorem step_of_nil {s : State} (h : s.port = []) : step s = .next s := by
  simp only [step, stepPort, h]

theorem step_of_cons {s : State} {p : PortSample} {rest : List PortSample} (h : s.port = p :: rest) :
    step s = edge p (s.withPort rest) := by
  simp only [step, stepPort, h]

end Sys2Proof.Machine
end

