-- ==== Sys2Proof/Laws/PerInstr.lean ====
section
/-! SUPPORT. Per instruction: the canonical word carries the row's opcode in bits 35..32 and the row's operand, all
else 0, in bits 31..0 (30_encoding.md R41, R42). -/

namespace Sys2Proof.Laws.EncodedFields

/-- The two fields of the canonical word. -/
def Statement (i : Instr) : Prop := opcodeField (encode i) = i.opcode ∧ dataField (encode i) = i.canonicalData

theorem fields (i : Instr) : Statement i := ⟨opcodeField_commandWord _ _, dataField_commandWord _ _⟩

theorem nop : Statement .nop := fields _
theorem crcInit : Statement .crcInit := fields _
theorem crcByte (b : Byte) : Statement (.crcByte b) := fields _
theorem crcType : Statement .crcType := fields _
theorem typeLoad (w : Word) : Statement (.typeLoad w) := fields _
theorem typeClr : Statement .typeClr := fields _
theorem reserved6 : Statement .reserved6 := fields _
theorem reserved7 : Statement .reserved7 := fields _
theorem reserved8 : Statement .reserved8 := fields _
theorem reserved9 : Statement .reserved9 := fields _
theorem reservedA : Statement .reservedA := fields _
theorem reservedB : Statement .reservedB := fields _
theorem reservedC : Statement .reservedC := fields _
theorem reservedD : Statement .reservedD := fields _
theorem reservedE : Statement .reservedE := fields _
theorem reservedF : Statement .reservedF := fields _

end Sys2Proof.Laws.EncodedFields
end

