-- ==== Sys2Proof/Tests/Slice0.lean ====
section
/-! SUPPORT. Tests. Expected values are the spec's own: 95_test_vectors.md (its section or vector is named), or the
encodings of 30_encoding.md. Then one witness a statement with hypotheses. -/

namespace Sys2Proof.Machine

-- Elaborate one theorem after another: the many small kernel checks otherwise start a thread with a stack each.
set_option Elab.async false

/-- A state `(crc_r, type_r, type_st, err_cmd)` as 95_test_vectors.md writes it. -/
def st (crc type : Word) (tag : TypeSt) (err : Bool) : State :=
  { crc_r := crc, type_r := type, type_st := tag, err_cmd := err, port := [] }

/-- The same registers without a port. -/
def rg (crc type : Word) (tag : TypeSt) (err : Bool) : Regs := (st crc type tag err).toRegs

/-- The next state of an outcome. -/
def answer (o : Host.Outcome State Fault Refusal) : Option State :=
  match o with
  | .next s => some s
  | .fault _ | .refused _ => none

/-- One step on a table word: fetch, decode and execute. -/
def onWord (w : Nat) (s : State) : Option State := answer (step (s.withFetchWord 40 w))

/-! ### Well-formedness: one ill-formed term for each check -/

theorem test_wf_byte_too_large : AsmLine.wellFormed { mnemonic := .crcByte, operands := [.number 256] } = false := by decide
theorem test_wf_byte_not_ascii : AsmLine.wellFormed { mnemonic := .crcByte, operands := [.char (Char.ofNat 0xE9)] } = false := by decide
theorem test_wf_byte_missing : AsmLine.wellFormed { mnemonic := .crcByte, operands := [] } = false := by decide
theorem test_wf_word_too_large : AsmLine.wellFormed { mnemonic := .typeLoad, operands := [.number (2 ^ 32)] } = false := by decide
theorem test_wf_word_three_characters : AsmLine.wellFormed { mnemonic := .typeLoad, operands := [.text ['a', 'b', 'c']] } = false := by decide
theorem test_wf_word_not_ascii : AsmLine.wellFormed { mnemonic := .typeLoad, operands := [.text ['a', 'b', 'c', Char.ofNat 0xE9]] } = false := by decide
theorem test_wf_word_two_operands : AsmLine.wellFormed { mnemonic := .typeLoad, operands := [.number 1, .number 2] } = false := by decide
theorem test_wf_no_operand_expected : AsmLine.wellFormed { mnemonic := .typeClr, operands := [.number 0] } = false := by decide
theorem test_wf_text_among_numbers : AsmLine.wellFormed { mnemonic := .crcBytes, operands := [.number 1, .text ['a']] } = false := by decide
theorem test_wf_chunk_without_type : AsmLine.wellFormed { mnemonic := .chunkCrc, operands := [.number 1] } = false := by decide
theorem test_wf_crcByte_255 : AsmLine.wellFormed { mnemonic := .crcByte, operands := [.number 255] } = true := by decide

/-! ### Decoding: words written out from 30_encoding.md R40 to R43 (`op` then `data`) -/

theorem test_decode_nop : decode (0b0000#4 ++ 0xDEADBEEF#32 : BitVec (4 + 32)) = .nop := by decide
theorem test_decode_crcInit : decode (0b0001#4 ++ 0x00000000#32 : BitVec (4 + 32)) = .crcInit := by decide
theorem test_decode_crcByte :
    decode (0b001011111111111111111111111101100001 : CommandWord) = .crcByte 0x61 := by decide
theorem test_decode_crcType : decode (0b0011#4 ++ 0xFFFFFFFF#32 : BitVec (4 + 32)) = .crcType := by decide
theorem test_decode_typeLoad :
    decode (0b010001010010011101010101001101110100 : CommandWord) = .typeLoad 0x52755374 := by decide
theorem test_decode_typeClr : decode (0b0101#4 ++ 0x00000000#32 : BitVec (4 + 32)) = .typeClr := by decide
theorem test_decode_reserved :
    [0x600000000, 0x712345678, 0x800000000, 0x9FFFFFFFF, 0xA00000000, 0xB00000000, 0xC00000000, 0xD00000000, 0xE00000000,
      0xFFFFFFFFF].map (decodeTableWord 40) =
    [.reserved6, .reserved7, .reserved8, .reserved9, .reservedA, .reservedB, .reservedC, .reservedD, .reservedE,
      .reservedF].map some := by decide
theorem test_decode_table_word : decodeTableWord 40 0x452755374 = some (.typeLoad 0x52755374) := by decide
theorem test_decode_too_wide : decodeTableWord 40 0x1052755374 = none := by decide
theorem test_encode_crcByte : encode (.crcByte 0xFF) = 0x2000000FF := by decide

/-! ### The commands: 95_test_vectors.md section 2.5 -/

theorem test_V1_nop : onWord 0x000000000 State.reset = some State.reset := by decide
theorem test_V2_nop_junk : onWord 0x0DEADBEEF (st 0x174841BC 0 .empty false) = some (st 0x174841BC 0 .empty false) := by decide
theorem test_V3_crcInit : onWord 0x100000000 (st 0x174841BC 0x52755374 .valid false) =
    some (st 0xFFFFFFFF 0x52755374 .valid false) := by decide
theorem test_V5_crcByte_junk : onWord 0x2FFFFFF61 State.reset = some (st 0x174841BC 0 .empty false) := by decide +kernel
theorem test_V6_crcByte_zero : onWord 0x200000000 State.reset = some (st 0x2DFD1072 0 .empty false) := by decide +kernel
theorem test_V9_crcType_invalid : onWord 0x300000000 (st 0x174841BC 0 .invalid false) =
    some (st 0x174841BC 0 .invalid true) := by decide
theorem test_V10_crcType_again : onWord 0x300000000 (st 0x2B7BF6C3 0x52755374 .valid false) =
    some (st 0x4006C1D7 0x52755374 .valid false) := by decide +kernel
theorem test_V11_typeLoad : onWord 0x452755374 State.reset = some (st 0xFFFFFFFF 0x52755374 .valid false) := by decide
theorem test_V12_typeLoad_fails : onWord 0x452753174 (st 0xFFFFFFFF 0x52755374 .valid false) =
    some (st 0xFFFFFFFF 0 .invalid false) := by decide
theorem test_V14_typeClr : onWord 0x500000000 (st 0x12345678 0x49454E44 .valid false) =
    some (st 0x12345678 0 .empty false) := by decide
theorem test_V15_typeClr_sticky : onWord 0x5FFFFFFFF (st 0xFFFFFFFF 0 .invalid true) =
    some (st 0xFFFFFFFF 0 .empty true) := by decide
theorem test_V16_reserved_lowest : onWord 0x600000000 State.reset = some (st 0xFFFFFFFF 0 .empty true) := by decide
theorem test_V17_reserved_highest : onWord 0xFFFFFFFFF (st 0x174841BC 0x52755374 .valid false) =
    some (st 0x174841BC 0x52755374 .valid true) := by decide
theorem test_reserved_between : [0x700000000, 0x800000000, 0x900000000, 0xA00000000, 0xB00000000, 0xC00000000, 0xD00000000,
    0xE00000000].map (fun w => onWord w State.reset) = List.replicate 8 (some (st 0xFFFFFFFF 0 .empty true)) := by decide
theorem test_V18_reset : answer (step ((st 0x174841BC 0x52755374 .valid true).withPort [resetSample])) = some State.reset := by decide
theorem test_reset_wins : answer (step ((st 0x174841BC 0 .empty false).withPort
    [{ rst := true, cmd_valid := true, cmd := 0xF00000000 }])) = some State.reset := by decide

/-! ### The functions: 95_test_vectors.md sections 1, 2.1 to 2.4; 40_crc.md R54 -/

theorem test_bitstep : [bitstep 0x00000000 true, bitstep 0x00000001 false, bitstep 0x00000001 true, bitstep 0xFFFFFFFF false,
    bitstep 0xFFFFFFFF true, bitstep 0x80000000 true] =
    [0xEDB88320, 0xEDB88320, 0x00000000, 0x92477CDF, 0x7FFFFFFF, 0xADB88320] := by decide
theorem test_upd : [upd 0xFFFFFFFF 0xFF, upd 0x00000000 0x80, upd 0x000000FF 0xFF, upd 0x80000000 0x00, upd 0x12345678 0x9A] =
    [0x00FFFFFF, 0xEDB88320, 0x00000000, 0x00800000, 0x4E16B702] := by decide +kernel
theorem test_updTab : [updTab 0xFFFFFFFF 0x61, updTab 0x12345678 0x9A, updRom 0x12345678 0x9A] =
    [0x174841BC, 0x4E16B702, 0x4E16B702] := by decide +kernel
theorem test_checksum_123456789 :
    checksum [0x31, 0x32, 0x33, 0x34, 0x35, 0x36, 0x37, 0x38, 0x39] = 0xCBF43926 := by decide +kernel
/-- 40_crc.md R66 (c), its example. -/
theorem test_checksum_FF : checksum [0xFF] = ~~~ (crcTable 0x00 ^^^ 0x00FFFFFF) ∧ checksum [0xFF] = 0xFF000000 := by
  decide +kernel
theorem test_checksum_32_zeros : checksum (List.replicate 32 0x00) = 0x190A55AD := by decide +kernel
/-- The source's fixed vector, S1. -/
theorem test_checksum_S1 : checksum [0x52, 0x75, 0x53, 0x74, 0x54, 0x68, 0x69, 0x73, 0x20, 0x69, 0x73, 0x20, 0x77, 0x68, 0x65,
    0x72, 0x65, 0x20, 0x79, 0x6F, 0x75, 0x72, 0x20, 0x73, 0x65, 0x63, 0x72, 0x65, 0x74, 0x20, 0x6D, 0x65, 0x73, 0x73, 0x61,
    0x67, 0x65, 0x20, 0x77, 0x69, 0x6C, 0x6C, 0x20, 0x62, 0x65, 0x21] = 0xABD1D84E := by decide +kernel
theorem test_letter_edges : [0x40, 0x41, 0x5A, 0x5B, 0x60, 0x61, 0x7A, 0x7B, 0xC1].map isLetter =
    [false, true, true, false, false, true, true, false, false] := by decide
theorem test_fixture_flags : [0x72755374, 0x52555374, 0x52757374, 0x52755354].map
    (fun w => (typeDecode w).map fun t => [t.critical, t.isPublic, t.reservedBitValid, t.safeToCopy]) =
    [some [false, false, true, true], some [true, true, true, true], some [true, false, false, true],
     some [true, false, true, false]] := by decide
theorem test_out_reset : State.reset.out =
    { crc_out := 0, type_out := 0, type_st := 0b00, is_critical := false, is_public := false,
      is_reserved_bit_valid := false, is_safe_to_copy := false, err_cmd := false } := by decide
theorem test_no_held_type : (st 0 0 .invalid false).heldType = none := by decide

/-! ### The assembler: 95_test_vectors.md section 3 -/

theorem test_asm_crcByte : assembleText ['C', 'R', 'C', '_', 'B', 'Y', 'T', 'E', ' ', '\'', ';', '\'', ' ', ';', ' ', 'x'] =
    some [.crcByte 0x3B] := by decide
theorem test_asm_typeLoad_hex : assembleText ['T', 'Y', 'P', 'E', '_', 'L', 'O', 'A', 'D', ' ', '0', 'x', '5', '2', '7', '5',
    '3', '1', '7', '4'] = some [.typeLoad 0x52753174] := by decide
theorem test_asm_chunk : assembleText ['C', 'H', 'U', 'N', 'K', '_', 'C', 'R', 'C', ' ', '"', 'R', 'u', 'S', 't', '"', ' ', '"',
    'T', 'h', '"'] = some [.typeLoad 0x52755374, .crcInit, .crcType, .crcByte 0x54, .crcByte 0x68] := by decide
theorem test_asm_glued_quote : assembleText ['C', 'R', 'C', '_', 'B', 'Y', 'T', 'E', '\'', 'a', '\''] = none := by decide
theorem test_asm_unfinished : assembleText ['C', 'R', 'C', '_', 'B', 'Y', 'T', 'E', ' ', '\'', 'a'] = none := by decide

/-! ### Witnesses: a state and operands that meet each statement's hypotheses -/

theorem witness_DecodeFollowsTheOpcodeMap :
    (0x0FFFFFFFF : CommandWord) &&& 0xF00000000 = 0x000000000 ∧ (0x100000000 : CommandWord) &&& 0xF00000000 = 0x100000000 ∧
    (0x2FFFFFFFF : CommandWord) &&& 0xF00000000 = 0x200000000 ∧ (0x300000000 : CommandWord) &&& 0xF00000000 = 0x300000000 ∧
    (0x4FFFFFFFF : CommandWord) &&& 0xF00000000 = 0x400000000 ∧ (0x5FFFFFFFF : CommandWord) &&& 0xF00000000 = 0x500000000 := by
  decide
/-- Also of the clauses on CRC_BYTE and TYPE_LOAD words and on the other instructions. -/
theorem witness_IgnoredBitsHaveNoEffect :
    (0x2FFFFFF61 : CommandWord) &&& 0xF00000000 = 0x200000061 &&& 0xF00000000 ∧
    (0x2FFFFFF61 : CommandWord) &&& 0xF00000000 = 0x200000000 ∧
    (0x2FFFFFF61 : CommandWord).setWidth 8 = (0x200000061 : CommandWord).setWidth 8 ∧
    (0x4FFFFFFFF : CommandWord) &&& 0xF00000000 = 0x400000000 ∧
    (∀ b, Instr.crcType ≠ .crcByte b) ∧ (∀ w, Instr.crcType ≠ .typeLoad w) := by
  refine ⟨by decide, by decide, by decide, by decide, ?_, ?_⟩ <;> (intro x; exact Instr.noConfusion)
/-- Words of each clause: CRC_BYTE with bits 31..8 zero, and another opcode with its data zero. -/
theorem witness_EncodeDecodeIsCanonical :
    (0x2000000FF : CommandWord) &&& 0xF00000000 = 0x200000000 ∧ (0x2000000FF : CommandWord) &&& 0x0FFFFFF00 = 0 ∧
    (0xF00000000 : CommandWord) &&& 0xF00000000 ≠ 0x200000000 ∧ (0xF00000000 : CommandWord) &&& 0xF00000000 ≠ 0x400000000 ∧
    (0xF00000000 : CommandWord) &&& 0x0FFFFFFFF = 0 := by decide
theorem witness_StepRunsThePresentedCommand :
    (State.reset.present 0x100000000).port = [commandSample 0x100000000] ∧ (commandSample 0x100000000).rst = false ∧
    (commandSample 0x100000000).cmd_valid = true ∧ idleSample.rst = false ∧ idleSample.cmd_valid = false ∧
    State.reset.port = [] := by decide
theorem witness_StepRunsTheTableWord : 36 ≤ 36 ∧ 0xFFFFFFFFF < 2 ^ 36 := by decide
theorem witness_ResetLeavesTheListedValues :
    resetSample.rst = true ∧ ((st 1 2 .valid true).withPort [resetSample]).port = resetSample :: [] := by decide
/-- An edge with reset, and a step that clears `err_cmd`. -/
theorem witness_ResetEdgeGivesS0 : resetSample.rst = true ∧
    step ((st 0 0 .empty true).withPort [resetSample]) = .next State.reset ∧
    ((st 0 0 .empty true).withPort [resetSample]).err_cmd = true ∧ State.reset.err_cmd = false :=
  ⟨rfl, rfl, rfl, rfl⟩
theorem witness_NopChangesNothing : (0x0DEADBEEF : CommandWord) &&& 0xF00000000 = 0x000000000 ∧ idleSample.rst = false ∧
    idleSample.cmd_valid = false := by decide
theorem witness_CrcInitStartsAChecksum : (0x1FFFFFFFF : CommandWord) &&& 0xF00000000 = 0x100000000 ∧
    exec .crcInit State.reset = .next State.reset := ⟨by decide, rfl⟩
theorem witness_CrcByteUpdatesTheRunningValue : (0x2FFFFFFFF : CommandWord) &&& 0xF00000000 = 0x200000000 := by decide
theorem witness_CrcTypeFeedsTheHeldCode : (st 0 0x52755374 .valid false).type_st = .valid ∧
    ((st 0 0 .empty false).type_st = .empty ∨ (st 0 0 .empty false).type_st = .invalid) ∧
    ((st 0 0 .invalid false).type_st = .empty ∨ (st 0 0 .invalid false).type_st = .invalid) ∧
    (0x3FFFFFFFF : CommandWord) &&& 0xF00000000 = 0x300000000 := by decide
theorem witness_TypeLoadHoldsLettersOrNothing : validType 0x415A617A = true ∧ validType 0x4141417B = false ∧
    (0x4FFFFFFFF : CommandWord) &&& 0xF00000000 = 0x400000000 ∧
    exec (.typeLoad 0) State.reset = .next (st 0xFFFFFFFF 0 .invalid false) ∧
    exec (.typeLoad 0x52755374) State.reset = .next (st 0xFFFFFFFF 0x52755374 .valid false) :=
  ⟨by decide, by decide, by decide, rfl, rfl⟩
/-- A failed load among the commands after it; the last lines leave INVALID by `TYPE_CLR`. -/
theorem witness_TypeClrDiscardsTheCode : (∀ w, Instr.typeLoad w ∈ [.nop, .typeLoad 0x52753174, .crcType] → validType w = false) ∧ (0x500000001 : CommandWord) &&& 0xF00000000 = 0x500000000 ∧
    (st 7 0 .invalid false).type_st = .invalid ∧
    exec .typeClr (st 7 0 .invalid false) = .next (st 7 0 .empty false) ∧
    (st 7 0 .empty false).type_st ≠ .invalid :=
  ⟨by simp; decide, by decide, rfl, rfl, by decide⟩
theorem witness_ReservedWordsSetErrCmdOnly : (0x600000000 : CommandWord) ≤ 0x600000000 ∧
    (0x600000000 : CommandWord) ≤ 0xFFFFFFFFF ∧
    ([0x6FFFFFFFF, 0x7FFFFFFFF, 0x8FFFFFFFF, 0x9FFFFFFFF, 0xAFFFFFFFF, 0xBFFFFFFFF, 0xCFFFFFFFF, 0xDFFFFFFFF, 0xEFFFFFFFF,
      0xFFFFFFFFF] : List CommandWord).map (· &&& 0xF00000000) =
      [0x600000000, 0x700000000, 0x800000000, 0x900000000, 0xA00000000, 0xB00000000, 0xC00000000, 0xD00000000, 0xE00000000,
      0xF00000000] ∧ Instr.reservedF ∈ [Instr.reserved6, .reservedF] := by decide
theorem witness_InvalidChunkTypeIsRecordedInTypeSt : resultTag (.typeLoad 0x4141417B) State.reset = .invalidChunkType ∧
    exec (.typeLoad 0x4141417B) State.reset = .next (st 0xFFFFFFFF 0 .invalid false) ∧
    State.reset.type_st ≠ .invalid ∧ validType 0x4141417B = false ∧ validType 0x40414141 = false ∧
    step ((st 0 0 .invalid false).present 0x500000000) = .next (st 0 0 .empty false) ∧
    (st 0 0 .empty false).type_st ≠ .invalid ∧ validType 0x41414141 = true ∧ resetSample.rst = true :=
  ⟨by decide, rfl, by decide, by decide, by decide, rfl, by decide, by decide, rfl⟩
theorem witness_IllegalCommandIsStickyAndHarmless : resultTag .crcType State.reset = .illegalCommand ∧
    exec .nop (st 0 0 .empty true) = .next (st 0 0 .empty true) ∧ (st 0 0 .empty true).err_cmd = true ∧
    step ((st 0 0 .empty true).withPort [resetSample]) = .next State.reset ∧ State.reset.err_cmd = false :=
  ⟨by decide, rfl, rfl, rfl, rfl⟩
theorem witness_RepeatingAFailedLoadFailsAgain : validType 0 = false ∧
    exec (.typeLoad 0) State.reset = .next (st 0xFFFFFFFF 0 .invalid false) ∧
    (State.reset.present 0).port = commandSample 0 :: [] ∧ step (State.reset.present 0) = .next State.reset :=
  ⟨by decide, rfl, rfl, rfl⟩
theorem witness_AtMostOneErrorAndResetWins : Instr.reserved6.isReserved = true ∧
    exec .crcType State.reset = .next (st 0xFFFFFFFF 0 .empty true) ∧ State.reset.type_st ≠ .invalid ∧
    State.reset.err_cmd = false :=
  ⟨by decide, rfl, by decide, rfl⟩
/-- One command for each register that may change. -/
theorem witness_RegistersAreWrittenByTheirCommandsOnly :
    exec .crcInit (st 0 0 .empty false) = .next (st 0xFFFFFFFF 0 .empty false) ∧
    exec (.typeLoad 0) State.reset = .next (st 0xFFFFFFFF 0 .invalid false) ∧
    exec .reserved6 State.reset = .next (st 0xFFFFFFFF 0 .empty true) := ⟨rfl, rfl, rfl⟩
theorem witness_StepKeepsTheStateInvariant :
    State.reset.Inv ∧ step State.reset = .next State.reset ∧ (st 5 0x41414141 .valid true).Inv ∧
    step (st 5 0x41414141 .valid true) = .next (st 5 0x41414141 .valid true) := by
  refine ⟨⟨by decide, by decide⟩, rfl, ⟨by decide, by decide⟩, rfl⟩
/-- A run of a reserved word, then an illegal `CRC_TYPE`. -/
theorem witness_ErrCmdRecordsExactlyTheIllegalCommands :
    runs Regs.reset [0x600000000, 0x300000000] = .next (rg 0xFFFFFFFF 0 .empty true) := rfl
theorem witness_UnitsInfluenceEachOtherOnlyThroughCrcType :
    runInstrs (rg 1 0 .empty false) [.nop, .reserved6] = .next (rg 1 0 .empty true) ∧
    runInstrs (rg 1 0 .empty true) [.nop, .reserved6] = .next (rg 1 0 .empty true) ∧
    Instr.crcType ∉ [Instr.nop, .reserved6] := ⟨rfl, rfl, by decide⟩
theorem witness_TypeOutputsFollowTheRegisters : (st 0 0x52755374 .valid false).type_st = .valid ∧
    (st 0 0 .empty false).type_st ≠ .valid ∧ (st 0 0 .invalid false).type_st ≠ .valid ∧
    (st 0 0x52755374 .valid false).Inv ∧ (st 0 0 .invalid false).Inv :=
  ⟨rfl, by decide, by decide, ⟨by decide, by decide⟩, ⟨by decide, by decide⟩⟩
/-- The last clause at reset with no byte, and after one byte: 0x174841BC is the update by 0x61 (40_crc.md R60). -/
theorem witness_CrcOutIsTheChecksumSoFar : exec .crcInit (st 0 0 .empty false) = .next State.reset ∧
    Regs.reset.crc_r = crcRun 0xFFFFFFFF [] ∧ (rg 0x174841BC 0 .empty false).crc_r = crcRun 0xFFFFFFFF [0x61] :=
  ⟨rfl, rfl, by decide +kernel⟩
/-- An illegal `CRC_TYPE` and a reserved word feed nothing, a legal `CRC_TYPE` the code held then, `CRC_INIT` starts anew. -/
theorem test_bytesFed : bytesFed none [0x01] [.crcType, .crcInit, .crcByte 0x02, .reserved6, .typeLoad 0x52755374, .crcType,
    .typeClr, .crcType, .nop, .crcByte 0x03] = [0x02, 0x52, 0x75, 0x53, 0x74, 0x03] := by decide
theorem witness_EightClocksOfTheShiftRegisterAreOneUpdate : 0 ≤ 7 ∧ 7 ≤ 7 ∧ 7 ≤ 8 ∧
    ClockState.cmdReady { regs := Regs.reset, busy := 0, waiting := none } = true ∧ Regs.reset.crc_r = 0xFFFFFFFF := by decide
theorem witness_InterleavedBytesGiveTheirChecksum :
    (∀ i ∈ [Instr.nop, .crcByte 0x61, .typeLoad 0, .typeClr], interleaves i) ∧ Regs.FromReset Regs.reset := by
  constructor
  · intro i hi
    simp only [List.mem_cons, List.not_mem_nil, or_false] at hi
    rcases hi with rfl | rfl | rfl | rfl <;> simp [interleaves]
  · rfl
theorem witness_CrcTypeIsFourCrcBytes : (rg 0xFFFFFFFF 0x52755374 .valid false).TypeHeld := rfl
theorem witness_ChunkSequenceGivesTheChunkChecksum : validType 0x52755374 = true := by decide
/-- A valid and a rejected word, with commands after them. -/
theorem witness_LoadedTypeStaysOnTheOutputs :
    (∀ i ∈ [Instr.nop, .crcInit, .crcByte 1, .crcType, .reserved6], (∀ w, i ≠ .typeLoad w) ∧ i ≠ .typeClr) ∧
    validType 0x52757374 = true := by
  constructor
  · intro i hi
    simp only [List.mem_cons, List.not_mem_nil, or_false] at hi
    rcases hi with rfl | rfl | rfl | rfl | rfl <;> simp
  · decide
theorem witness_UnitsNeedNoSpacing : validType 0x7A7A7A7A = true := by decide
theorem witness_LettersByTheirBits : isLetter 0x5A = true ∧ isLetter 0x61 = true := by decide
theorem witness_TypeDecodeGivesFourIndependentFlags : validType 0x52757374 = true ∧ validType 0xD2755374 = false := by decide
theorem witness_FourLetterTextReadsBack :
    ∀ x ∈ ['R', 'u', 'S', 't'], asciiChar x = true ∧ isLetter (charByte x) = true := by
  intro x hx
  simp only [List.mem_cons, List.not_mem_nil, or_false] at hx
  rcases hx with rfl | rfl | rfl | rfl <;> decide
/-- A ready block with a command, a busy block with one that waits, a ready block without one, a reset. -/
theorem witness_CommandsAreAcceptedByTheHandshake : keepsWord (some 0x200000061) (commandSample 0x200000061) = true ∧
    (commandSample 0x200000061).rst = false ∧ (commandSample 0x200000061).cmd_valid = true ∧
    ClockState.cmdReady { regs := Regs.reset, busy := 0, waiting := some 0x200000061 } = true ∧
    ClockState.cmdReady { regs := Regs.reset, busy := 1, waiting := none } = false ∧ keepsWord none idleSample = true ∧
    idleSample.rst = false ∧ idleSample.cmd_valid = false ∧ (State.reset.withPort [idleSample]).port = idleSample :: [] ∧
    resetSample.rst = true := by decide
/-- A host that holds its word through two busy edges, one that changes it, one that withdraws it. -/
theorem witness_HostsThatDropAWaitingWordAreRefused :
    keepsDuty 8 2 none [commandSample 0x100000000, commandSample 0x100000000, commandSample 0x100000000] = true ∧
    keepsDuty 8 2 none [commandSample 0x100000000, commandSample 0x000000000] = false ∧
    keepsDuty 8 2 none [commandSample 0x100000000, idleSample] = false ∧
    idleSample.rst = false ∧ idleSample.cmd_valid = false := by decide
/-- The longest command of a bit-serial build: `CRC_TYPE` with LAT_BYTE 8, another word waiting meanwhile. -/
theorem witness_CmdReadyReturns : 0 < 8 ∧
    ClockState.cmdReady { regs := Regs.reset, busy := 0, waiting := none } = true ∧
    (∀ p ∈ List.replicate 31 (commandSample 0x100000000), p.rst = false) ∧
    (List.replicate 31 (commandSample 0x100000000)).length + 1 = latency 8 (decode 0x300000000) ∧
    keepsDuty 8 (latency 8 (decode 0x300000000) - 1) none (List.replicate 31 (commandSample 0x100000000)) = true := by decide
theorem witness_OutputsAreSampledOnlyWhenReady :
    ClockState.cmdReady { regs := Regs.reset, busy := 0, waiting := none } = true ∧
    ClockState.cmdReady { regs := Regs.reset, busy := 1, waiting := none } = false := by decide
theorem witness_ResultsDoNotDependOnLatency : 0 < 1 ∧
    ClockState.cmdReady { regs := Regs.reset, busy := 0, waiting := none } = true := by decide
/-- A word that waits, a reset in the middle of it, an idle edge, a word. -/
theorem witness_ClockedBlockRefinesTheStep : keepsDuty 8 2 none
    [commandSample 0x100000000, resetSample, idleSample, commandSample 0x200000061, commandSample 0x100000000] = true := by
  decide
theorem witness_ResultsDependOnTheBytesAlone : 0 < 1 ∧ 0 < 8 ∧
    (rg 5 0x52755374 .valid false).crc_r = (rg 5 0 .empty true).crc_r ∧
    Instr.crcType ∉ [Instr.nop, .crcByte 1, .typeClr, .reserved6] := by decide
theorem witness_PseudoCommandsExpand : (∀ c ∈ ['a', '~'], asciiChar c = true) ∧
    ∀ x ∈ ['R', 'u', 'S', 't'], asciiChar x = true ∧ isLetter (charByte x) = true :=
  ⟨by simp [asciiChar], witness_FourLetterTextReadsBack⟩
/-- Mixed byte operands, a text, and a text beside another operand. -/
theorem witness_PseudoCommandsTakeCharactersAndTexts :
    (∀ o ∈ [AsmOperand.number 255, .char 'a'], o.isByte = true) ∧ (∀ c ∈ ['a', '~'], asciiChar c = true) ∧
    (∀ x ∈ ['R', 'u', 'S', 't'], asciiChar x = true ∧ isLetter (charByte x) = true) ∧
    AsmOperand.text ['a'] ∈ [AsmOperand.number 1, .text ['a']] ∧
    [AsmOperand.number 1, .text ['a']].length ≠ 1 :=
  ⟨by simp [AsmOperand.isByte, asciiChar], by simp [asciiChar], witness_FourLetterTextReadsBack, by simp, by simp⟩
/-- A line with a literal, and one with a `;` inside a literal. -/
theorem witness_AssemblerOperandsAndComments :
    lex .between ['C', 'R', 'C', '_', 'B', 'Y', 'T', 'E', ' ', '\'', 'a', '\''] =
      some [.word ['C', 'R', 'C', '_', 'B', 'Y', 'T', 'E'], .char 'a'] ∧
    lex .between ['\'', ';', '\''] = some [.char ';'] := by decide

end Sys2Proof.Machine
end

section
/-! PROOFS of the family 10_state.md: the outputs as functions of the registers, the state after reset, and `crc_out`
as the checksum of the bytes fed since the last initialisation. -/

namespace Sys2Proof.Machine

/-! ### The outputs -/

@[simp] theorem out_is_critical (S : Regs) : S.out.is_critical = (S.holdsType && critical S.type_r) := rfl

@[simp] theorem out_is_public (S : Regs) : S.out.is_public = (S.holdsType && publicBit S.type_r) := rfl

@[simp] theorem out_is_reserved_bit_valid (S : Regs) :
    S.out.is_reserved_bit_valid = (S.holdsType && reservedBitValid S.type_r) := rfl

@[simp] theorem out_is_safe_to_copy (S : Regs) : S.out.is_safe_to_copy = (S.holdsType && safeToCopy S.type_r) := rfl

theorem holdsType_of_valid {S : Regs} (h : S.type_st = .valid) : S.holdsType = true := decide_eq_true h

theorem holdsType_of_not_valid {S : Regs} (h : S.type_st ≠ .valid) : S.holdsType = false := decide_eq_false h

theorem heldType_of_valid {S : Regs} (h : S.type_st = .valid) : S.heldType = some (typeCode S.type_r) := if_pos h

theorem heldType_of_not_valid {S : Regs} (h : S.type_st ≠ .valid) : S.heldType = none := if_neg h

/-- The flags as bits of the word (41_type.md R72 to R75). -/
theorem critical_eq_not_bit (w : Word) : critical w = !w[29] := rfl

theorem publicBit_eq_not_bit (w : Word) : publicBit w = !w[21] := rfl

theorem reservedBitValid_eq_not_bit (w : Word) : reservedBitValid w = !w[13] := rfl

theorem safeToCopy_eq_bit (w : Word) : safeToCopy w = w[5] := rfl

/-- In the invariant `type_out` needs no gate: `type_r` is 0 wherever no valid code is held (10_state.md R16 (c), R18). -/
theorem typeOut_of_inv {S : Regs} (h : S.Inv) : S.typeOut = S.type_r := by
  by_cases hv : S.type_st = .valid
  · exact typeOut_of_valid hv
  · rw [typeOut_of_not_valid hv, h.2 hv]

/-- Settles O30: `holdsType` gates `type_out`, each flag and the partial view alike. -/
theorem typeOutputsFollowTheRegisters : Obligations.TypeOutputsFollowTheRegisters := by
  refine ⟨fun s hv => ?_, fun s hv => ?_, fun s hinv => typeOut_of_inv hinv, fun s => ⟨rfl, ?_, ?_⟩⟩
  · simp [typeOut_of_valid hv, holdsType_of_valid hv, heldType_of_valid hv, hv, typeCode, TypeSt.code,
      critical_eq_not_bit, publicBit_eq_not_bit, reservedBitValid_eq_not_bit, safeToCopy_eq_bit]
  · simp [typeOut_of_not_valid hv, holdsType_of_not_valid hv, heldType_of_not_valid hv]
  · intro he
    rw [out_type_st, he]
    rfl
  · intro hi
    rw [out_type_st, hi]
    rfl

/-! ### Reset -/

/-- A step that takes a reset sample. -/
theorem step_of_reset {s : State} {p : PortSample} {rest : List PortSample} (hp : p.rst = true)
    (h : s.port = p :: rest) : step s = .next (s.withPort rest).resetRegisters := by
  rw [step_of_cons h, edge_reset hp]

/-- A block that is ready shows `out(S)` (70_reset_and_hazards.md R128). -/
theorem outputs_of_cmdReady {k : ClockState} (h : k.cmdReady = true) : k.outputs = some k.regs.out :=
  if_pos (cmdReady_iff.mp h)

/-- Settles O8: the listed values are those of `S0`, and a reset edge gives `S0` in both layers. -/
theorem resetLeavesTheListedValues : Obligations.ResetLeavesTheListedValues := by
  refine ⟨rfl, rfl, rfl, rfl, rfl, rfl, by decide, ?_, ?_⟩
  · intro s rest p hp hport
    exact step_of_reset hp hport
  · intro lat k p hp
    exact ⟨_, clockEdge_reset hp lat k, rfl, outputs_of_cmdReady rfl⟩

/-! ### The bytes fed and `crc_out` -/

/-- Every command gives a next state (42_misc.md R91). -/
theorem exec_total (i : Instr) (s : State) : ∃ t, exec i s = .next t := by
  cases i with
  | crcType =>
    by_cases hv : s.type_st = .valid
    · exact ⟨_, if_pos hv⟩
    · exact ⟨_, if_neg hv⟩
  | typeLoad w =>
    by_cases hw : validType w = true
    · exact ⟨_, if_pos hw⟩
    · exact ⟨_, if_neg hw⟩
  | _ => exact ⟨_, rfl⟩

theorem execRegs_total (i : Instr) (S : Regs) : ∃ T, execRegs i S = .next T :=
  have ⟨_, ht⟩ := exec_total i { toRegs := S, port := [] }
  ⟨_, execRegs_of_exec ht⟩

/-- The streaming law of `run` (40_crc.md R58). -/
theorem crcRun_append (c : Word) (as bs : List Byte) : crcRun c (as ++ bs) = crcRun (crcRun c as) bs := by
  induction as generalizing c with
  | nil => rfl
  | cons a as ih => exact ih (upd c a)

/-- One command keeps `crc_r` the run over the bytes fed since the last initialisation (`before` those fed earlier, `fed`
those fed after it), and any further commands feed onto `fed`. -/
theorem exists_fed_of_execRegs {i : Instr} {S T : Regs} {before : List Byte} (h : execRegs i S = .next T)
    (hc : S.crc_r = crcRun crcInitValue before) :
    ∃ fed, T.crc_r = crcRun crcInitValue fed ∧
      ∀ is, bytesFed S.heldWord before (i :: is) = bytesFed T.heldWord fed is := by
  obtain ⟨rfl, rfl⟩ | ⟨rfl, rfl⟩ | ⟨b, rfl, rfl⟩ | ⟨rfl, hv, rfl⟩ | ⟨rfl, hv, rfl⟩ | ⟨w, rfl, hw, rfl⟩ |
    ⟨w, rfl, hw, rfl⟩ | ⟨rfl, rfl⟩ | ⟨hres, rfl⟩ := execRegs_cases h
  · exact ⟨before, hc, fun _ => rfl⟩
  · exact ⟨[], rfl, fun _ => rfl⟩
  · refine ⟨before ++ [b], ?_, fun _ => rfl⟩
    simp [crcRun_append, hc]
  · refine ⟨before ++ typeBytes S.type_r, ?_, fun is => ?_⟩
    · simp [crcRun_append, hc]
    · simp [bytesFed, heldWord_of_valid, hv]
  · refine ⟨before, hc, fun is => ?_⟩
    simp [bytesFed, heldWord_of_not_valid, hv]
  · refine ⟨before, hc, fun is => ?_⟩
    simp [bytesFed, hw, heldWord_of_valid]
  · refine ⟨before, hc, fun is => ?_⟩
    simp [bytesFed, hw, heldWord_of_not_valid]
  · exact ⟨before, hc, fun _ => rfl⟩
  · exact ⟨before, hc, bytesFed_of_isReserved hres _ _⟩

/-- Every run ends, and keeps `crc_r` the run over the bytes fed since the last initialisation. -/
theorem crc_r_of_runInstrs (is : List Instr) {S : Regs} {before : List Byte}
    (hc : S.crc_r = crcRun crcInitValue before) :
    ∃ T, runInstrs S is = .next T ∧ T.crc_r = crcRun crcInitValue (bytesFed S.heldWord before is) := by
  induction is generalizing S before with
  | nil => exact ⟨S, rfl, hc⟩
  | cons i is ih =>
    obtain ⟨S', hS'⟩ := execRegs_total i S
    obtain ⟨fed, hcrc, hfed⟩ := exists_fed_of_execRegs hS' hc
    rw [runInstrs_cons_of_next is hS', hfed]
    exact ih hcrc

/-- The same on the port: `crc_out` is the checksum of the bytes fed (10_state.md R17). -/
theorem crc_out_of_runInstrs (is : List Instr) {S : Regs} {before : List Byte}
    (hc : S.crc_r = crcRun crcInitValue before) :
    ∃ T, runInstrs S is = .next T ∧ T.out.crc_out = checksum (bytesFed S.heldWord before is) := by
  obtain ⟨T, hrun, hcrc⟩ := crc_r_of_runInstrs is hc
  exact ⟨T, hrun, by rw [out_crc_out, hcrc, checksum]⟩

/-- Settles O31: by induction on the run, each command keeping `crc_r` the run over the bytes fed so far. -/
theorem crcOutIsTheChecksumSoFar : Obligations.CrcOutIsTheChecksumSoFar := by
  refine ⟨fun S => ⟨rfl, ?_⟩, by decide, ?_, ?_, ?_, ?_⟩
  · exact (BitVec.xor_allOnes (x := S.crc_r)).symm
  · intro s t h
    injection h with h
    rw [← h, out_crc_out, writeCrc_crc_r]
    decide
  · intro is
    exact crc_out_of_runInstrs is rfl
  · intro S is
    rw [runInstrs_cons_of_next is (S' := { S with crc_r := crcInitValue }) rfl]
    exact crc_out_of_runInstrs is rfl
  · intro S before is hc
    exact crc_out_of_runInstrs is hc

end Sys2Proof.Machine
end

section
/-! PROOFS of the family 30_encoding.md: the rows of the opcode table, the ignored bits, the reserved words, and the
expansions of the pseudo-commands. -/

namespace Sys2Proof

/-! ### Words by mask and match -/

theorem dataField_eq_setWidth (cw : CommandWord) : dataField cw = cw.setWidth 32 :=
  (BitVec.setWidth_eq_extractLsb' (by decide)).symm

theorem byteField_eq_setWidth (cw : CommandWord) : byteField cw = cw.setWidth 8 :=
  (BitVec.setWidth_eq_extractLsb' (by decide)).symm

/-- The instruction of a row of the table, read off the row's match `m`: with a literal opcode `k` the right side
computes. -/
theorem decode_of_and_opcodeMask_eq {cw m : CommandWord} (k : BitVec 4) (hm : m.toNat = k.toNat * 2 ^ 32)
    (h : cw &&& 0xF00000000 = m) : decode cw = decodeFields k (cw.setWidth 8) (cw.setWidth 32) := by
  rw [decode_of_opcode ((and_opcodeMask_eq_iff k hm).mp h), byteField_eq_setWidth, dataField_eq_setWidth]

/-- Words alike under the opcode's mask have the same opcode. -/
theorem opcodeField_eq_of_and_opcodeMask_eq {cw cw' : CommandWord} (h : cw &&& 0xF00000000 = cw' &&& 0xF00000000) :
    opcodeField cw = opcodeField cw' :=
  (and_opcodeMask_eq_iff (opcodeField cw') (by rw [toNat_and_opcodeMask, toNat_opcodeField])).mp h

/-! ### Canonical words, field by field -/

theorem commandWord_and (op op' : BitVec 4) (d d' : Word) :
    commandWord op d &&& commandWord op' d' = commandWord (op &&& op') (d &&& d') := BitVec.and_append

theorem commandWord_or (op op' : BitVec 4) (d d' : Word) :
    commandWord op d ||| commandWord op' d' = commandWord (op ||| op') (d ||| d') := BitVec.or_append

/-- Data alone, as a word of opcode 0. -/
theorem commandWord_zero_left (d : Word) : commandWord 0 d = d.setWidth 36 := by
  apply BitVec.eq_of_toNat_eq
  have hd : d.toNat < 2 ^ 36 := lt_trans d.isLt (by decide)
  rw [toNat_commandWord, BitVec.toNat_setWidth, Nat.mod_eq_of_lt hd]
  simp

/-- A word is its opcode in place, the row's match, or-ed with its data. -/
theorem commandWord_eq_or (op : BitVec 4) (d : Word) : commandWord op d = commandWord op 0 ||| d.setWidth 36 := by
  rw [← commandWord_zero_left, commandWord_or]
  simp

/-- The low byte of the data has no bit above bit 7. -/
theorem setWidth_and_ignoredByteMask (b : Byte) : b.setWidth 32 &&& 0xFFFFFF00 = 0 := by
  have hb : b.setWidth 32 = (0 : BitVec 24) ++ b := BitVec.setWidth_eq_append (by decide)
  rw [hb, show (0xFFFFFF00 : Word) = (0xFFFFFF : BitVec 24) ++ (0 : Byte) from rfl, BitVec.and_append]
  simp

theorem encode_crcByte (b : Byte) : encode (.crcByte b) = 0x200000000 ||| b.setWidth 36 := by
  have hb : (b.setWidth 32).setWidth 36 = b.setWidth 36 := BitVec.setWidth_setWidth (by decide)
  rw [← hb]
  exact commandWord_eq_or 0x2 _

theorem encode_typeLoad (w : Word) : encode (.typeLoad w) = 0x400000000 ||| w.setWidth 36 := commandWord_eq_or 0x4 w

/-- Only the two commands with an operand have data in their canonical word (30_encoding.md R41). -/
theorem canonicalData_eq_zero {i : Instr} (hb : ∀ b, i ≠ .crcByte b) (hw : ∀ w, i ≠ .typeLoad w) :
    i.canonicalData = 0 := by
  cases i with
  | crcByte b => exact absurd rfl (hb b)
  | typeLoad w => exact absurd rfl (hw w)
  | _ => rfl

/-- Settles O1: the mask and match of a row fix the opcode, and a canonical word is its match or-ed with its data. -/
theorem decodeFollowsTheOpcodeMap : Obligations.DecodeFollowsTheOpcodeMap :=
  ⟨fun _ => ⟨decode_of_and_opcodeMask_eq 0 rfl, decode_of_and_opcodeMask_eq 1 rfl, decode_of_and_opcodeMask_eq 2 rfl,
    decode_of_and_opcodeMask_eq 3 rfl, decode_of_and_opcodeMask_eq 4 rfl, decode_of_and_opcodeMask_eq 5 rfl⟩,
    rfl, rfl, encode_crcByte, rfl, encode_typeLoad, rfl⟩

/-- Settles O2: a decoded instruction keeps the used bits alone, and the canonical data has no others. -/
theorem ignoredBitsHaveNoEffect : Obligations.IgnoredBitsHaveNoEffect := by
  refine ⟨fun cw cw' s hop hb hw => ?_, fun _ => decode_of_and_opcodeMask_eq 2 rfl,
    fun _ => decode_of_and_opcodeMask_eq 4 rfl, fun b => ?_, fun i hb hw => ?_⟩
  · have hdec : decode cw = decode cw' := by
      apply decode_congr (opcodeField_eq_of_and_opcodeMask_eq hop)
      · intro h2
        rw [byteField_eq_setWidth, byteField_eq_setWidth, hb ((and_opcodeMask_eq_iff 2 rfl).mpr h2)]
      · intro h4
        rw [dataField_eq_setWidth, dataField_eq_setWidth, hw ((and_opcodeMask_eq_iff 4 rfl).mpr h4)]
    simp only [Machine.execWord, hdec]
  · calc encode (.crcByte b) &&& 0x0FFFFFF00
        = commandWord 0x2 (b.setWidth 32) &&& commandWord 0x0 0xFFFFFF00 := rfl
      _ = commandWord 0x0 0 := by rw [commandWord_and, setWidth_and_ignoredByteMask]; rfl
  · calc encode i &&& 0x0FFFFFFFF
        = commandWord i.opcode 0 &&& commandWord 0x0 0xFFFFFFFF := by rw [encode, canonicalData_eq_zero hb hw]; rfl
      _ = commandWord 0x0 0 := by simp [commandWord_and]

end Sys2Proof

namespace Sys2Proof.Machine

/-! ### Reserved commands -/

/-- Every reserved command raises IllegalCommand, in every state (30_encoding.md R43). -/
theorem exec_of_isReserved {i : Instr} (h : i.isReserved = true) (s : State) :
    exec i s = .next s.raiseIllegalCommand := by
  cases i with
  | nop | crcInit | crcByte | crcType | typeLoad | typeClr => exact absurd h (by simp [Instr.isReserved, Instr.opcode])
  | _ => rfl

/-- The words that decode to a reserved command are those from 0x600000000 on. -/
theorem isReserved_decode_iff (cw : CommandWord) : (decode cw).isReserved = true ↔ 0x600000000 ≤ cw := by
  have hm : (0x600000000 : CommandWord).toNat = 6 * 2 ^ 32 := rfl
  rw [Instr.isReserved, decide_eq_true_iff, opcode_decode, toNat_opcodeField, BitVec.le_def, hm]
  omega

/-- Settles O16: a word from 0x600000000 on decodes to a reserved command, and each of the ten raises IllegalCommand. -/
theorem reservedWordsSetErrCmdOnly : Obligations.ReservedWordsSetErrCmdOnly := by
  refine ⟨fun cw s h => exec_of_isReserved ((isReserved_decode_iff cw).mpr h) s, fun _ => ?_, fun i s hi => ?_⟩
  · exact ⟨decode_of_and_opcodeMask_eq 6 rfl, decode_of_and_opcodeMask_eq 7 rfl, decode_of_and_opcodeMask_eq 8 rfl,
      decode_of_and_opcodeMask_eq 9 rfl, decode_of_and_opcodeMask_eq 10 rfl, decode_of_and_opcodeMask_eq 11 rfl,
      decode_of_and_opcodeMask_eq 12 rfl, decode_of_and_opcodeMask_eq 13 rfl, decode_of_and_opcodeMask_eq 14 rfl,
      decode_of_and_opcodeMask_eq 15 rfl⟩
  · have hres : ∀ j ∈ [Instr.reserved6, .reserved7, .reserved8, .reserved9, .reservedA, .reservedB, .reservedC,
        .reservedD, .reservedE, .reservedF], j.isReserved = true := by decide
    exact exec_of_isReserved (hres i hi) s

/-! ### The bytes at the four positions of a word (20_memory.md R32) -/

/-- Above its low byte a row of bytes is the row without it. -/
theorem extractLsb'_append_byte {n : Nat} (x : BitVec n) (b : Byte) (k : Nat) :
    (x ++ b).extractLsb' (k + 8) 8 = x.extractLsb' k 8 :=
  BitVec.extractLsb'_append_eq_of_le (Nat.le_add_left 8 k)

@[simp] theorem bytePos0_wordOfBytes (b0 b1 b2 b3 : Byte) : bytePos0 (wordOfBytes b0 b1 b2 b3) = b0 := by
  calc (b0 ++ b1 ++ b2 ++ b3).extractLsb' 24 8
      = (b0 ++ b1 ++ b2).extractLsb' 16 8 := extractLsb'_append_byte _ b3 16
    _ = (b0 ++ b1).extractLsb' 8 8 := extractLsb'_append_byte _ b2 8
    _ = b0 := BitVec.extractLsb'_append_eq_left

@[simp] theorem bytePos1_wordOfBytes (b0 b1 b2 b3 : Byte) : bytePos1 (wordOfBytes b0 b1 b2 b3) = b1 := by
  calc (b0 ++ b1 ++ b2 ++ b3).extractLsb' 16 8
      = (b0 ++ b1 ++ b2).extractLsb' 8 8 := extractLsb'_append_byte _ b3 8
    _ = (b0 ++ b1).extractLsb' 0 8 := extractLsb'_append_byte _ b2 0
    _ = b1 := BitVec.extractLsb'_append_eq_right

@[simp] theorem bytePos2_wordOfBytes (b0 b1 b2 b3 : Byte) : bytePos2 (wordOfBytes b0 b1 b2 b3) = b2 := by
  calc (b0 ++ b1 ++ b2 ++ b3).extractLsb' 8 8
      = (b0 ++ b1 ++ b2).extractLsb' 0 8 := extractLsb'_append_byte _ b3 0
    _ = b2 := BitVec.extractLsb'_append_eq_right

@[simp] theorem bytePos3_wordOfBytes (b0 b1 b2 b3 : Byte) : bytePos3 (wordOfBytes b0 b1 b2 b3) = b3 :=
  BitVec.extractLsb'_append_eq_right

@[simp] theorem typeBytes_wordOfBytes (b0 b1 b2 b3 : Byte) :
    typeBytes (wordOfBytes b0 b1 b2 b3) = [b0, b1, b2, b3] := by
  simp [typeBytes]

theorem validType_wordOfBytes (b0 b1 b2 b3 : Byte) :
    validType (wordOfBytes b0 b1 b2 b3) = [b0, b1, b2, b3].all isLetter := by
  rw [validType, typeBytes_wordOfBytes]

/-! ### Assembling the pseudo-commands (30_encoding.md R47) -/

theorem assemble_of_wellFormed {l : AsmLine} (h : l.wellFormed = true) : assemble l = some (expandLine l) := if_pos h

theorem assemble_crcBytes {ops : List AsmOperand} (h : isByteSequence ops = true) :
    assemble { mnemonic := .crcBytes, operands := ops } = some (expandBytes ops) := assemble_of_wellFormed h

theorem assemble_checksum {ops : List AsmOperand} (h : isByteSequence ops = true) :
    assemble { mnemonic := .checksum, operands := ops } = some (.crcInit :: expandBytes ops) := assemble_of_wellFormed h

theorem assemble_chunkCrc {t : AsmOperand} {ops : List AsmOperand} (ht : t.isTypeText = true)
    (h : isByteSequence ops = true) :
    assemble { mnemonic := .chunkCrc, operands := t :: ops } =
      some (.typeLoad (operandWord t) :: .crcInit :: .crcType :: expandBytes ops) :=
  assemble_of_wellFormed (Bool.and_eq_true_iff.mpr ⟨ht, h⟩)

/-- Byte operands make a byte sequence: none of them is a text, so no text stands alone. -/
theorem isByteSequence_of_isByte {ops : List AsmOperand} (h : ∀ o ∈ ops, o.isByte = true) :
    isByteSequence ops = true := by
  unfold isByteSequence
  split
  · exact absurd (h _ (List.mem_singleton_self _)) (by simp [AsmOperand.isByte])
  · exact List.all_eq_true.mpr h

theorem isByteSequence_text {cs : List Char} (h : ∀ c ∈ cs, asciiChar c = true) : isByteSequence [.text cs] = true :=
  List.all_eq_true.mpr h

theorem isTypeText_of_ascii {a b c d : Char} (h : ∀ x ∈ [a, b, c, d], asciiChar x = true) :
    (AsmOperand.text [a, b, c, d]).isTypeText = true := by
  simpa [AsmOperand.isTypeText] using h

/-- Bytes written as numbers are in range. -/
theorem isByteSequence_numbers (bs : List Byte) : isByteSequence (bs.map fun b => .number b.toNat) = true := by
  apply isByteSequence_of_isByte
  intro o ho
  obtain ⟨b, -, rfl⟩ := List.mem_map.mp ho
  exact decide_eq_true (Nat.le_of_lt_succ b.isLt)

theorem expandBytes_numbers (bs : List Byte) : expandBytes (bs.map fun b => .number b.toNat) = bs.map .crcByte := by
  simp [expandBytes, List.flatMap_map, operandBytes]

theorem expandBytes_text (cs : List Char) : expandBytes [.text cs] = cs.map fun c => .crcByte (charByte c) := by
  simp [expandBytes, operandBytes]

/-! ### What the expansions leave on `crc_out` -/

/-- `CRC_BYTE` commands feed their bytes. -/
theorem bytesFed_crcBytes (held : Option Word) (acc bs : List Byte) :
    bytesFed held acc (bs.map .crcByte) = acc ++ bs := by
  induction bs generalizing acc with
  | nil => exact (List.append_nil acc).symm
  | cons b bs ih =>
    rw [List.map_cons, bytesFed, ih, List.append_assoc]
    rfl

/-- From `CRC_INIT` on, `crc_out` is the checksum of the bytes fed, whatever was fed before. -/
theorem crc_out_of_runInstrs_crcInit (S : Regs) (is : List Instr) :
    ∃ T, runInstrs S (.crcInit :: is) = .next T ∧ T.out.crc_out = checksum (bytesFed S.heldWord [] is) := by
  rw [runInstrs_cons_of_next is (S' := { S with crc_r := crcInitValue }) rfl]
  exact crc_out_of_runInstrs is rfl

/-- `CHECKSUM b1 ... bn` leaves the checksum of its bytes. -/
theorem crc_out_of_checksum (S : Regs) (bs : List Byte) :
    ∃ T, runInstrs S (.crcInit :: bs.map .crcByte) = .next T ∧ T.out.crc_out = checksum bs := by
  obtain ⟨T, hrun, hout⟩ := crc_out_of_runInstrs_crcInit S (bs.map .crcByte)
  exact ⟨T, hrun, by rw [hout, bytesFed_crcBytes, List.nil_append]⟩

/-- A `TYPE_LOAD` of four letters succeeds and holds them. -/
theorem heldWord_of_execRegs_typeLoad {w : Word} {S T : Regs} (h : execRegs (.typeLoad w) S = .next T)
    (hw : validType w = true) : T.heldWord = some w := by
  have hload : exec (.typeLoad w) { toRegs := S, port := [] } = .next (State.writeType _ w .valid) := if_pos hw
  rw [execRegs_of_exec hload] at h
  injection h with h
  rw [← h]
  exact heldWord_of_valid rfl

/-- `CHUNK_CRC` ends in every case, and with a valid code it leaves the checksum of the code's bytes and the data. -/
theorem crc_out_of_chunkCrc (S : Regs) (w : Word) (ds : List Byte) :
    ∃ T, runInstrs S (.typeLoad w :: .crcInit :: .crcType :: ds.map .crcByte) = .next T ∧
      (validType w = true → T.out.crc_out = checksum (typeBytes w ++ ds)) := by
  obtain ⟨S', hload⟩ := execRegs_total (.typeLoad w) S
  obtain ⟨T, hrun, hout⟩ := crc_out_of_runInstrs_crcInit S' (.crcType :: ds.map .crcByte)
  refine ⟨T, by rw [runInstrs_cons_of_next _ hload, hrun], fun hw => ?_⟩
  rw [hout, heldWord_of_execRegs_typeLoad hload hw, bytesFed, bytesFed_crcBytes]
  rfl

/-- Settles O57: each expansion from the assembler's equation for its mnemonic, its result from the bytes it feeds. -/
theorem pseudoCommandsExpand : Obligations.PseudoCommandsExpand := by
  refine ⟨fun bs => ?_, fun cs hcs => ?_, rfl, fun bs S => ?_, fun a b c d ds S hascii => ?_⟩
  · rw [assemble_crcBytes (isByteSequence_numbers bs), expandBytes_numbers]
  · rw [assemble_crcBytes (isByteSequence_text hcs), expandBytes_text]
  · obtain ⟨T, hrun, hout⟩ := crc_out_of_checksum S bs
    refine ⟨_, T, ?_, rfl, hrun, hout⟩
    rw [assemble_checksum (isByteSequence_numbers bs), expandBytes_numbers]
  · obtain ⟨T, hrun, hout⟩ :=
      crc_out_of_chunkCrc S (wordOfBytes (charByte a) (charByte b) (charByte c) (charByte d)) ds
    refine ⟨_, T, ?_, rfl, hrun, fun hletters => ?_⟩
    · rw [assemble_chunkCrc (isTypeText_of_ascii hascii) (isByteSequence_numbers ds), expandBytes_numbers]
      rfl
    · rw [hout, typeBytes_wordOfBytes]
      · rfl
      · rw [validType_wordOfBytes]
        simpa using hletters

end Sys2Proof.Machine
end

section
/-! PROOFS of the family 40_crc.md: the byte update and its bijectivity, the checksum function, and the three commands
of the CRC unit. -/

namespace Sys2Proof.Machine

/-! ### The byte update (40_crc.md R52, R53, R57) -/

/-- The byte update, step by step: bit 0 of the byte first. -/
theorem upd_eq_bitsteps (c : Word) (b : Byte) : upd c b =
    bitstep (bitstep (bitstep (bitstep (bitstep (bitstep (bitstep (bitstep c b[0]) b[1]) b[2]) b[3]) b[4]) b[5])
      b[6]) b[7] := rfl

/-- The value of `CRC_BYTE 'a'` from reset, the example of 40_crc.md R53 and R60. -/
theorem upd_crcInitValue_a : upd crcInitValue 0x61 = 0x174841BC := by decide +kernel

/-- The complement is the exclusive-or with `XOROUT` (40_crc.md R57). -/
theorem checksum_eq_xor (bs : List Byte) : checksum bs = crcRun crcInitValue bs ^^^ crcXorOut :=
  (BitVec.xor_allOnes (x := crcRun crcInitValue bs)).symm

/-- Settles O32: the two cases of the 1-bit step are its definition, and the two folds are written out. -/
theorem byteUpdateIsEightBitsteps : Obligations.ByteUpdateIsEightBitsteps :=
  ⟨fun _ _ => rfl, upd_eq_bitsteps, fun _ => rfl, upd_crcInitValue_a⟩

/-- Settles O36: the two equations of `run`, the complement as an exclusive-or, and the source's vector by evaluation. -/
theorem checksumIsTheComplementedRun : Obligations.ChecksumIsTheComplementedRun :=
  ⟨crcRun_nil, crcRun_cons, fun bs => ⟨rfl, checksum_eq_xor bs⟩, by decide, by decide +kernel⟩

/-! ### The byte update is a bijection (40_crc.md R60) -/

/-- A step with feedback leaves bit 31 set: the shift clears it and `POLY` has it. -/
theorem bitstep_ne_zero_of_feedback {c : Word} {d : Bool} (h : (c.getLsbD 0 ^^ d) = true) : bitstep c d ≠ 0 := by
  intro hz
  have hmsb : (bitstep c d).getLsbD 31 = true := by
    rw [bitstep_of_feedback h, BitVec.getLsbD_xor, BitVec.getLsbD_ushiftRight, BitVec.getLsbD_of_ge c _ (by decide)]
    rfl
  rw [hz] at hmsb
  exact absurd hmsb (by decide)

/-- The right shift by one loses bit 0 only. -/
theorem eq_zero_of_ushiftRight_one {c : Word} (h0 : c.getLsbD 0 = false) (h : c >>> 1 = 0) : c = 0 := by
  apply BitVec.eq_of_getLsbD_eq
  intro i _
  cases i with
  | zero => exact h0
  | succ i =>
    calc c.getLsbD (i + 1)
        = (c >>> 1).getLsbD i := by rw [BitVec.getLsbD_ushiftRight, Nat.add_comm]
      _ = (0 : Word).getLsbD i := by rw [h]
      _ = (0 : Word).getLsbD (i + 1) := by simp

/-- The step `bitstep(., 0)` is linear; its kernel is trivial, since feedback would leave bit 31 set. -/
theorem eq_zero_of_bitstep_false_eq_zero {c : Word} (h : bitstep c false = 0) : c = 0 := by
  cases hf : (c.getLsbD 0 ^^ false) with
  | true => exact absurd h (bitstep_ne_zero_of_feedback hf)
  | false =>
    rw [bitstep_of_no_feedback hf] at h
    exact eq_zero_of_ushiftRight_one (by rwa [Bool.xor_false] at hf) h

/-- By linearity (`bitstep_xor`) two values that merge differ by an element of the kernel. -/
theorem bitstep_injective (d : Bool) : Function.Injective fun c => bitstep c d := by
  intro c c' h
  have h : bitstep c d = bitstep c' d := h
  have hdiff : bitstep (c ^^^ c') false = 0 := by
    rw [← Bool.xor_self d, bitstep_xor, h]
    exact BitVec.xor_self
  exact BitVec.xor_eq_zero_iff.mp (eq_zero_of_bitstep_false_eq_zero hdiff)

theorem foldl_bitstep_injective (ds : List Bool) : Function.Injective fun c => ds.foldl bitstep c := by
  induction ds with
  | nil => exact Function.injective_id
  | cons d ds ih => exact ih.comp (bitstep_injective d)

/-- An injection of the finitely many 32-bit values into themselves is a bijection. -/
theorem upd_bijective (b : Byte) : Function.Bijective fun c => upd c b := by
  have : Finite Word := Finite.of_equiv _ (BitVec.equivFin (m := 32)).symm.toEquiv
  exact Finite.injective_iff_bijective.mp (foldl_bitstep_injective (byteBits b))

/-! ### The commands of the CRC unit (40_crc.md R59, R60, R62) -/

theorem exec_crcInit (s : State) : exec .crcInit s = .next (s.writeCrc 0xFFFFFFFF) := rfl

theorem exec_crcByte (b : Byte) (s : State) : exec (.crcByte b) s = .next (s.writeCrc (upd s.crc_r b)) := rfl

theorem exec_crcType_of_valid {s : State} (h : s.type_st = .valid) :
    exec .crcType s = .next (s.feed (typeBytes s.type_r)) := if_pos h

theorem exec_crcType_of_not_valid {s : State} (h : s.type_st ≠ .valid) :
    exec .crcType s = .next s.raiseIllegalCommand := if_neg h

theorem execRegs_crcType_of_valid {S : Regs} (h : S.type_st = .valid) :
    execRegs .crcType S = .next { S with crc_r := crcRun S.crc_r (typeBytes S.type_r) } :=
  execRegs_of_exec (s := { toRegs := S, port := [] }) (exec_crcType_of_valid h)

/-- Without a valid code the tag is EMPTY or INVALID (10_state.md R13). -/
theorem ne_valid_iff {t : TypeSt} : t ≠ .valid ↔ t = .empty ∨ t = .invalid := by
  cases t <;> decide

theorem resultTag_crcType_eq_illegalCommand_iff (s : State) :
    resultTag .crcType s = .illegalCommand ↔ s.type_st ≠ .valid := by
  by_cases h : s.type_st = .valid
  · simp [resultTag, h]
  · simp [resultTag, h]

/-- Settles O11: `CRC_INIT` overwrites `crc_r` with a constant, whose complement is 0. -/
theorem crcInitStartsAChecksum : Obligations.CrcInitStartsAChecksum := by
  refine ⟨exec_crcInit, fun _ => decode_of_and_opcodeMask_eq 1 rfl, rfl, fun _ => rfl, fun s t h => ?_, rfl⟩
  rw [exec_crcInit] at h
  injection h with h
  subst h
  exact ⟨rfl, by rw [out_crc_out, writeCrc_crc_r]; decide⟩

/-- Settles O12: `CRC_BYTE` writes `upd`, a fold of injective steps; the examples by evaluation. -/
theorem crcByteUpdatesTheRunningValue : Obligations.CrcByteUpdatesTheRunningValue := by
  refine ⟨exec_crcByte, fun _ => decode_of_and_opcodeMask_eq 2 rfl, encode_crcByte, fun _ _ => rfl, upd_bijective,
    ?_, ?_, by decide, by decide, ?_⟩
  · have h0 : upd State.reset.crc_r 0x00 = 0x2DFD1072 := by decide +kernel
    rw [exec_crcByte, h0]
    rfl
  · rw [exec_crcByte, show upd State.reset.crc_r 0x61 = 0x174841BC from upd_crcInitValue_a]
    rfl
  · rw [checksum, crcRun_cons, crcRun_nil, upd_crcInitValue_a]
    decide

/-- Settles O13: by the tag held, `CRC_TYPE` is a feed of four bytes or an IllegalCommand; two feeds are one of both
byte sequences by the streaming law. -/
theorem crcTypeFeedsTheHeldCode : Obligations.CrcTypeFeedsTheHeldCode := by
  refine ⟨fun s hv => ⟨_, _, _, _, rfl, rfl, rfl, rfl, exec_crcType_of_valid hv⟩,
    fun s ht => exec_crcType_of_not_valid (ne_valid_iff.mpr ht), fun _ => decode_of_and_opcodeMask_eq 3 rfl, rfl,
    fun s => (resultTag_crcType_eq_illegalCommand_iff s).trans ne_valid_iff, fun S hv => ?_, ?_⟩
  · have hagain := execRegs_crcType_of_valid (S := { S with crc_r := crcRun S.crc_r (typeBytes S.type_r) }) hv
    rw [runInstrs_cons_of_next _ (execRegs_crcType_of_valid hv), runInstrs_cons_of_next _ hagain, crcRun_append]
    rfl
  · have hrun : crcRun State.reset.crc_r (typeBytes 0x52755374) = 0x2B7BF6C3 := by decide +kernel
    rw [exec_crcType_of_valid rfl, State.feed]
    exact congrArg (fun v => Host.Outcome.next (State.writeCrc _ v)) hrun

end Sys2Proof.Machine
end

section
/-! PROOFS of the family 41_type.md: the letter test, the flags and `TypeDecode`, and the two commands of the type
unit. -/

namespace Sys2Proof.Machine

/-! ### Letters and valid words (41_type.md R70, R71) -/

theorem isLetter_iff (b : Byte) : isLetter b = true ↔
    (0x41 ≤ b.toNat ∧ b.toNat ≤ 0x5A) ∨ (0x61 ≤ b.toNat ∧ b.toNat ≤ 0x7A) := by
  simp [isLetter, BitVec.le_def]

theorem validType_iff (w : Word) : validType w = true ↔
    isLetter (bytePos0 w) = true ∧ isLetter (bytePos1 w) = true ∧ isLetter (bytePos2 w) = true ∧
    isLetter (bytePos3 w) = true := by
  simp [validType, typeBytes]

/-- Settles O44: the two ranges are the definition's comparisons, and the 256 values are counted. -/
theorem lettersAreTheFiftyTwoAsciiOnes : Obligations.LettersAreTheFiftyTwoAsciiOnes :=
  ⟨isLetter_iff, by decide +kernel⟩

/-! ### The flags (41_type.md R72 to R75) -/

/-- Bit 5 of each byte position, the case bit of a letter, as a bit of the word. -/
theorem bit5_bytePos0 (w : Word) : (bytePos0 w)[5] = w[29] := BitVec.getElem_extractLsb' _

theorem bit5_bytePos1 (w : Word) : (bytePos1 w)[5] = w[21] := BitVec.getElem_extractLsb' _

theorem bit5_bytePos2 (w : Word) : (bytePos2 w)[5] = w[13] := BitVec.getElem_extractLsb' _

theorem bit5_bytePos3 (w : Word) : (bytePos3 w)[5] = w[5] := BitVec.getElem_extractLsb' _

/-- Settles O46: each flag is a bit of the word, and that bit is bit 5 of its byte position. -/
theorem flagsAreTheFourBitTests : Obligations.FlagsAreTheFourBitTests := by
  refine ⟨fun w => ?_, fun w => ?_, by decide, by decide⟩
  · simp [critical_eq_not_bit, publicBit_eq_not_bit, reservedBitValid_eq_not_bit, safeToCopy_eq_bit]
  · exact ⟨(bit5_bytePos0 w).symm, (bit5_bytePos1 w).symm, (bit5_bytePos2 w).symm, (bit5_bytePos3 w).symm⟩

/-- The flags of a word read its bytes' case bits, each its own byte. -/
theorem typeCode_wordOfBytes (b0 b1 b2 b3 : Byte) : typeCode (wordOfBytes b0 b1 b2 b3) =
    { raw := wordOfBytes b0 b1 b2 b3, critical := !b0[5], isPublic := !b1[5], reservedBitValid := !b2[5],
      safeToCopy := b3[5] } := by
  simp [typeCode, critical_eq_not_bit, publicBit_eq_not_bit, reservedBitValid_eq_not_bit, safeToCopy_eq_bit,
    ← bit5_bytePos0, ← bit5_bytePos1, ← bit5_bytePos2, ← bit5_bytePos3]

/-! ### `TypeDecode` (41_type.md R76) -/

theorem typeDecode_of_valid {w : Word} (h : validType w = true) : typeDecode w = some (typeCode w) := if_pos h

theorem typeDecode_of_not_valid {w : Word} (h : validType w = false) : typeDecode w = none :=
  if_neg (Bool.eq_false_iff.mp h)

/-- The letter `a` when the case bit is to be 1, `A` when it is to be 0. -/
def letterWithCase (lower : Bool) : Byte := if lower = true then 0x61 else 0x41

@[simp] theorem isLetter_letterWithCase (lower : Bool) : isLetter (letterWithCase lower) = true := by
  cases lower <;> decide

@[simp] theorem bit5_letterWithCase (lower : Bool) : (letterWithCase lower)[5] = lower := by
  cases lower <;> decide

/-- Four letters of free case: the case bits are the flags, of which the first three are inverted. -/
theorem exists_typeDecode_of_flags (a b c d : Bool) : ∃ w, typeDecode w =
    some { raw := w, critical := a, isPublic := b, reservedBitValid := c, safeToCopy := d } := by
  refine ⟨wordOfBytes (letterWithCase !a) (letterWithCase !b) (letterWithCase !c) (letterWithCase d), ?_⟩
  rw [typeDecode_of_valid (by simp [validType_wordOfBytes]), typeCode_wordOfBytes]
  simp

/-- Settles O47: `TypeDecode` by validity, and for any flags the word of four letters in the case the flags ask for. -/
theorem typeDecodeGivesFourIndependentFlags : Obligations.TypeDecodeGivesFourIndependentFlags :=
  ⟨fun _ => typeDecode_of_valid, fun _ => typeDecode_of_not_valid, exists_typeDecode_of_flags⟩

/-! ### `TYPE_LOAD` (41_type.md R78, R80) -/

theorem exec_typeLoad_of_valid {w : Word} (h : validType w = true) (s : State) :
    exec (.typeLoad w) s = .next (s.writeType w .valid) := if_pos h

theorem exec_typeLoad_of_not_valid {w : Word} (h : validType w = false) (s : State) :
    exec (.typeLoad w) s = .next s.raiseInvalidChunkType := if_neg (Bool.eq_false_iff.mp h)

theorem resultTag_typeLoad_eq_invalidChunkType_iff (w : Word) (s : State) :
    resultTag (.typeLoad w) s = .invalidChunkType ↔ validType w = false := by
  by_cases h : validType w = true
  · simp [resultTag, h]
  · simp [resultTag, h]

/-- A load writes both type registers, and what it writes depends on its word alone (41_type.md R80). -/
theorem exec_typeLoad_eq_writeType (w : Word) :
    ∃ v tag, ∀ s : State, exec (.typeLoad w) s = .next (s.writeType v tag) := by
  cases h : validType w with
  | true => exact ⟨w, .valid, exec_typeLoad_of_valid h⟩
  | false => exact ⟨0, .invalid, exec_typeLoad_of_not_valid h⟩

@[simp] theorem writeType_writeType (s : State) (w w' : Word) (t t' : TypeSt) :
    (s.writeType w t).writeType w' t' = s.writeType w' t' := rfl

/-- What the type registers held has no influence. -/
theorem exec_typeLoad_writeType (w old : Word) (was : TypeSt) (s : State) :
    exec (.typeLoad w) (s.writeType old was) = exec (.typeLoad w) s := by
  obtain ⟨v, tag, hload⟩ := exec_typeLoad_eq_writeType w
  rw [hload, hload, writeType_writeType]

theorem exec_typeLoad_again {w : Word} {s t : State} (h : exec (.typeLoad w) s = .next t) :
    exec (.typeLoad w) t = .next t := by
  obtain ⟨v, tag, hload⟩ := exec_typeLoad_eq_writeType w
  rw [hload] at h
  injection h with h
  rw [← h, hload, writeType_writeType]

/-- Settles O14: by validity a load is one of two writes of both type registers, neither of which reads them. -/
theorem typeLoadHoldsLettersOrNothing : Obligations.TypeLoadHoldsLettersOrNothing := by
  refine ⟨fun _ s hw => exec_typeLoad_of_valid hw s, fun _ s hw => exec_typeLoad_of_not_valid hw s, validType_iff,
    fun _ => decode_of_and_opcodeMask_eq 4 rfl, encode_typeLoad, resultTag_typeLoad_eq_invalidChunkType_iff,
    fun _ _ _ => exec_typeLoad_again, exec_typeLoad_writeType, by decide, by decide, fun s t h => ?_⟩
  rw [exec_typeLoad_of_valid (by decide)] at h
  injection h with h
  subst h
  have hheld : (s.writeType 0x52755374 .valid).holdsType = true := holdsType_of_valid rfl
  simp only [out_is_critical, out_is_public, out_is_reserved_bit_valid, out_is_safe_to_copy, hheld, writeType_type_r]
  decide

/-! ### `TYPE_CLR` (41_type.md R81) -/

theorem exec_typeClr (s : State) : exec .typeClr s = .next (s.writeType 0x00000000 .empty) := rfl

/-- Without a valid code the four flag ports are 0 (10_state.md R19). -/
theorem flags_of_not_valid {S : Regs} (h : S.type_st ≠ .valid) : S.out.is_critical = false ∧
    S.out.is_public = false ∧ S.out.is_reserved_bit_valid = false ∧ S.out.is_safe_to_copy = false := by
  simp [holdsType_of_not_valid h]

/-- No code is held: what `TYPE_CLR` and a failed load leave. -/
def Regs.HoldsNoCode (S : Regs) : Prop := S.type_st ≠ .valid ∧ S.type_r = 0x00000000

theorem exists_holdsNoCode_of_typeClr (S : Regs) : ∃ T, execRegs .typeClr S = .next T ∧ T.HoldsNoCode :=
  ⟨{ S with type_r := 0x00000000, type_st := .empty }, rfl, by simp, rfl⟩

/-- Only a successful `TYPE_LOAD` brings a code in. -/
theorem holdsNoCode_of_execRegs {i : Instr} {S T : Regs} (h : execRegs i S = .next T) (hS : S.HoldsNoCode)
    (hi : ∀ w, i = .typeLoad w → validType w = false) : T.HoldsNoCode := by
  obtain ⟨-, rfl⟩ | ⟨-, rfl⟩ | ⟨b, -, rfl⟩ | ⟨-, -, rfl⟩ | ⟨-, -, rfl⟩ | ⟨w, rfl, hw, -⟩ | ⟨w, -, -, rfl⟩ | ⟨-, rfl⟩ |
    ⟨-, rfl⟩ := execRegs_cases h
  · exact hS
  · exact hS
  · exact hS
  · exact hS
  · exact hS
  · exact absurd hw (Bool.eq_false_iff.mp (hi w rfl))
  · exact ⟨by simp, rfl⟩
  · exact ⟨by simp, rfl⟩
  · exact hS

/-- The same through any run. -/
theorem holdsNoCode_of_runInstrs (is : List Instr) {S : Regs} (hS : S.HoldsNoCode)
    (his : ∀ w, .typeLoad w ∈ is → validType w = false) : ∃ T, runInstrs S is = .next T ∧ T.HoldsNoCode := by
  induction is generalizing S with
  | nil => exact ⟨S, rfl, hS⟩
  | cons i is ih =>
    obtain ⟨S', hS'⟩ := execRegs_total i S
    rw [runInstrs_cons_of_next is hS']
    apply ih
    · exact holdsNoCode_of_execRegs hS' hS fun w hi => his w (hi ▸ List.mem_cons_self)
    · exact fun w hw => his w (List.mem_cons_of_mem i hw)

/-- The ways out of INVALID, by the cases of a command. -/
theorem typeClr_or_typeLoad_of_leaves_invalid {i : Instr} {s t : State} (hs : s.type_st = .invalid)
    (h : exec i s = .next t) (ht : t.type_st ≠ .invalid) :
    i = .typeClr ∨ ∃ w, i = .typeLoad w ∧ validType w = true := by
  obtain ⟨-, rfl⟩ | ⟨-, rfl⟩ | ⟨b, -, rfl⟩ | ⟨-, -, rfl⟩ | ⟨-, -, rfl⟩ | ⟨w, hi, hw, -⟩ | ⟨w, -, -, rfl⟩ | ⟨hi, -⟩ |
    ⟨-, rfl⟩ := exec_cases h
  · exact absurd hs ht
  · exact absurd hs ht
  · exact absurd hs ht
  · exact absurd hs ht
  · exact absurd hs ht
  · exact .inr ⟨w, hi, hw⟩
  · exact absurd rfl ht
  · exact .inl hi
  · exact absurd hs ht

/-- Settles O15: `TYPE_CLR` leaves no code held, and every command but a successful load keeps it so. -/
theorem typeClrDiscardsTheCode : Obligations.TypeClrDiscardsTheCode := by
  refine ⟨exec_typeClr, fun _ => decode_of_and_opcodeMask_eq 5 rfl, rfl, fun _ => rfl, fun s t h => ?_,
    fun S is his => ?_, fun _ _ _ => typeClr_or_typeLoad_of_leaves_invalid⟩
  · rw [exec_typeClr] at h
    injection h with h
    subst h
    have hempty : (s.writeType 0x00000000 .empty).type_st ≠ .valid := by simp
    exact ⟨rfl, exec_crcType_of_not_valid hempty, flags_of_not_valid hempty⟩
  · obtain ⟨S', hclr, hS'⟩ := exists_holdsNoCode_of_typeClr S
    obtain ⟨T, hrun, htag, hword⟩ := holdsNoCode_of_runInstrs is hS' his
    refine ⟨T, (runInstrs_cons_of_next is hclr).trans hrun, htag, hword, fun t ht => ?_⟩
    subst ht
    exact ⟨exec_crcType_of_not_valid htag, (resultTag_crcType_eq_illegalCommand_iff t).mpr htag⟩

end Sys2Proof.Machine
end

section
/-! PROOFS of the family 42_misc.md: `NOP` against an idle cycle. -/

namespace Sys2Proof.Machine

theorem exec_nop (s : State) : exec .nop s = .next s := rfl

theorem decode_eq_nop_of_and_opcodeMask_eq {cw : CommandWord} :
    cw &&& 0xF00000000 = 0x000000000 → decode cw = .nop := decode_of_and_opcodeMask_eq 0 rfl

/-- A step on an idle sample takes the sample and holds all state (70_reset_and_hazards.md R126). -/
theorem step_of_idle {s : State} {p : PortSample} {rest : List PortSample} (hr : p.rst = false)
    (hv : p.cmd_valid = false) (h : s.port = p :: rest) : step s = .next (s.withPort rest) := by
  rw [step_of_cons h, edge_idle hr hv]

/-- A step on a command sample executes the decoded word, the sample taken. -/
theorem step_of_command {s : State} {p : PortSample} {rest : List PortSample} (hr : p.rst = false)
    (hv : p.cmd_valid = true) (h : s.port = p :: rest) : step s = exec (decode p.cmd) (s.withPort rest) := by
  rw [step_of_cons h, edge_command hr hv, execWord]

/-- `NOP` at the port takes its sample and does nothing else, as an idle sample does (42_misc.md R90). -/
theorem step_nop_eq_step_idle {cw : CommandWord} {idle : PortSample} (hop : cw &&& 0xF00000000 = 0x000000000)
    (hr : idle.rst = false) (hv : idle.cmd_valid = false) (s : State) (rest : List PortSample) :
    step (s.withPort (commandSample cw :: rest)) = step (s.withPort (idle :: rest)) := by
  calc step (s.withPort (commandSample cw :: rest))
      = exec (decode cw) (s.withPort rest) := step_of_command (p := commandSample cw) rfl rfl rfl
    _ = .next (s.withPort rest) := by rw [decode_eq_nop_of_and_opcodeMask_eq hop, exec_nop]
    _ = step (s.withPort (idle :: rest)) := (step_of_idle (s := s.withPort (idle :: rest)) hr hv rfl).symm

/-- Settles O10: `NOP` answers its own state, so its step leaves what an idle sample's step leaves. -/
theorem nopChangesNothing : Obligations.NopChangesNothing :=
  ⟨exec_nop, fun _ => decode_eq_nop_of_and_opcodeMask_eq, rfl, fun _ => rfl,
    fun s _ _ rest hop hr hv => step_nop_eq_step_idle hop hr hv s rest, decode_eq_nop_of_and_opcodeMask_eq (by decide)⟩

end Sys2Proof.Machine
end

section
/-! PROOFS of the family 60_exceptions.md: the result tag of a command says which of the two errors it records; by that
tag, what a command and a step can do to `type_st` and `err_cmd`. -/

namespace Sys2Proof.Machine

/-! ### The result tags (60_exceptions.md R101, R102, R103) -/

theorem resultTag_of_isReserved {i : Instr} (h : i.isReserved = true) (s : State) :
    resultTag i s = .illegalCommand := by
  cases i with
  | nop | crcInit | crcByte | crcType | typeLoad | typeClr => exact absurd h (by simp [Instr.isReserved, Instr.opcode])
  | _ => rfl

theorem resultTag_crcType_ne_invalidChunkType (s : State) : resultTag .crcType s ≠ .invalidChunkType := by
  by_cases hv : s.type_st = .valid
  · simp [resultTag, hv]
  · simp [resultTag, hv]

theorem resultTag_typeLoad_ne_illegalCommand (w : Word) (s : State) :
    resultTag (.typeLoad w) s ≠ .illegalCommand := by
  by_cases hw : validType w = true
  · simp [resultTag, hw]
  · simp [resultTag, hw]

theorem resultTag_eq_invalidChunkType_iff (i : Instr) (s : State) :
    resultTag i s = .invalidChunkType ↔ ∃ w, i = .typeLoad w ∧ validType w = false := by
  constructor
  · intro h
    cases i with
    | typeLoad w => exact ⟨w, rfl, (resultTag_typeLoad_eq_invalidChunkType_iff w s).mp h⟩
    | crcType => exact absurd h (resultTag_crcType_ne_invalidChunkType s)
    | _ => cases h
  · rintro ⟨w, rfl, hw⟩
    exact (resultTag_typeLoad_eq_invalidChunkType_iff w s).mpr hw

theorem resultTag_eq_illegalCommand_iff (i : Instr) (s : State) :
    resultTag i s = .illegalCommand ↔ i.isReserved = true ∨ (i = .crcType ∧ s.type_st ≠ .valid) := by
  constructor
  · intro h
    cases i with
    | typeLoad w => exact absurd h (resultTag_typeLoad_ne_illegalCommand w s)
    | crcType => exact .inr ⟨rfl, (resultTag_crcType_eq_illegalCommand_iff s).mp h⟩
    | nop | crcInit | crcByte | typeClr => cases h
    | _ => exact .inl rfl
  · rintro (hres | ⟨rfl, hv⟩)
    · exact resultTag_of_isReserved hres s
    · exact (resultTag_crcType_eq_illegalCommand_iff s).mpr hv

/-- OK is the tag of every command that records no error. -/
theorem ResultTag.eq_ok_iff (r : ResultTag) : r = .ok ↔ r ≠ .invalidChunkType ∧ r ≠ .illegalCommand := by
  cases r <;> decide

theorem resultTag_eq_ok_iff (i : Instr) (s : State) :
    resultTag i s = .ok ↔ ¬ (∃ w, i = .typeLoad w ∧ validType w = false) ∧ i.isReserved = false ∧
      ¬ (i = .crcType ∧ s.type_st ≠ .valid) := by
  rw [ResultTag.eq_ok_iff, ne_eq, ne_eq, resultTag_eq_invalidChunkType_iff, resultTag_eq_illegalCommand_iff, not_or,
    Bool.not_eq_true]

/-- Settles O19: the codes are the definition's, and each tag has its case. -/
theorem resultTagsSayWhichErrorOccurred : Obligations.ResultTagsSayWhichErrorOccurred :=
  ⟨rfl, rfl, rfl, fun i s => ⟨resultTag_eq_invalidChunkType_iff i s, resultTag_eq_illegalCommand_iff i s,
    resultTag_eq_ok_iff i s⟩⟩

/-! ### What a command does, by its tag -/

theorem exec_of_invalidChunkType {i : Instr} {s : State} (h : resultTag i s = .invalidChunkType) :
    exec i s = .next s.raiseInvalidChunkType := by
  obtain ⟨w, rfl, hw⟩ := (resultTag_eq_invalidChunkType_iff i s).mp h
  exact exec_typeLoad_of_not_valid hw s

theorem exec_of_illegalCommand {i : Instr} {s : State} (h : resultTag i s = .illegalCommand) :
    exec i s = .next s.raiseIllegalCommand := by
  obtain hres | ⟨rfl, hv⟩ := (resultTag_eq_illegalCommand_iff i s).mp h
  · exact exec_of_isReserved hres s
  · exact exec_crcType_of_not_valid hv

/-- A command tagged OK records neither error: it keeps `err_cmd` and does not enter INVALID. -/
theorem exec_of_ok {i : Instr} {s t : State} (htag : resultTag i s = .ok) (h : exec i s = .next t) :
    t.err_cmd = s.err_cmd ∧ (t.type_st = .invalid → s.type_st = .invalid) := by
  obtain ⟨hload, hres, hcrc⟩ := (resultTag_eq_ok_iff i s).mp htag
  obtain ⟨-, rfl⟩ | ⟨-, rfl⟩ | ⟨b, -, rfl⟩ | ⟨-, -, rfl⟩ | ⟨hi, hv, -⟩ | ⟨w, -, -, rfl⟩ | ⟨w, hi, hw, -⟩ | ⟨-, rfl⟩ |
    ⟨hi, -⟩ := exec_cases h
  · exact ⟨rfl, id⟩
  · exact ⟨rfl, id⟩
  · exact ⟨rfl, id⟩
  · exact ⟨rfl, id⟩
  · exact absurd ⟨hi, hv⟩ hcrc
  · exact ⟨rfl, by simp⟩
  · exact absurd ⟨w, hi, hw⟩ hload
  · exact ⟨rfl, by simp⟩
  · exact absurd hi (Bool.eq_false_iff.mp hres)

/-- `err_cmd` changes only in a command tagged ILLEGAL_COMMAND. -/
theorem err_cmd_of_exec {i : Instr} {s t : State} (h : exec i s = .next t) (htag : resultTag i s ≠ .illegalCommand) :
    t.err_cmd = s.err_cmd := by
  cases hr : resultTag i s with
  | ok => exact (exec_of_ok hr h).1
  | invalidChunkType =>
    rw [exec_of_invalidChunkType hr] at h
    injection h with h
    rw [← h, raiseInvalidChunkType_err_cmd]
  | illegalCommand => exact absurd hr htag

/-- Only a command tagged INVALID_CHUNK_TYPE enters INVALID. -/
theorem invalidChunkType_of_enters_invalid {i : Instr} {s t : State} (h : exec i s = .next t)
    (hs : s.type_st ≠ .invalid) (ht : t.type_st = .invalid) : resultTag i s = .invalidChunkType := by
  cases hr : resultTag i s with
  | ok => exact absurd ((exec_of_ok hr h).2 ht) hs
  | invalidChunkType => rfl
  | illegalCommand =>
    rw [exec_of_illegalCommand hr] at h
    injection h with h
    rw [← h, raiseIllegalCommand_type_st] at ht
    exact absurd ht hs

/-- `err_cmd` is sticky in every command. -/
theorem err_cmd_true_of_exec {i : Instr} {s t : State} (h : exec i s = .next t) (hs : s.err_cmd = true) :
    t.err_cmd = true := by
  by_cases hr : resultTag i s = .illegalCommand
  · rw [exec_of_illegalCommand hr] at h
    injection h with h
    rw [← h, raiseIllegalCommand_err_cmd]
  · rw [err_cmd_of_exec h hr, hs]

/-- No command reads `err_cmd`: with the error recorded before, it does the same to all else. -/
theorem exec_raiseIllegalCommand {i : Instr} {s t : State} (h : exec i s = .next t) :
    exec i s.raiseIllegalCommand = .next t.raiseIllegalCommand := by
  obtain ⟨rfl, rfl⟩ | ⟨rfl, rfl⟩ | ⟨b, rfl, rfl⟩ | ⟨rfl, hv, rfl⟩ | ⟨rfl, hv, rfl⟩ | ⟨w, rfl, hw, rfl⟩ |
    ⟨w, rfl, hw, rfl⟩ | ⟨rfl, rfl⟩ | ⟨hres, rfl⟩ := exec_cases h
  · rfl
  · rfl
  · rfl
  · exact exec_crcType_of_valid (s := s.raiseIllegalCommand) hv
  · exact exec_crcType_of_not_valid (s := s.raiseIllegalCommand) hv
  · exact exec_typeLoad_of_valid hw s.raiseIllegalCommand
  · exact exec_typeLoad_of_not_valid hw s.raiseIllegalCommand
  · rfl
  · exact exec_of_isReserved hres s.raiseIllegalCommand

/-- A command leaves the samples to come as they are. -/
theorem port_of_exec {i : Instr} {s t : State} (h : exec i s = .next t) : t.port = s.port := by
  have hregs := exec_of_toRegs_eq h (s' := s) rfl
  rw [h] at hregs
  injection hregs with hregs
  rw [hregs]

/-! ### What an edge and a step can do -/

theorem edge_cases {p : PortSample} {s t : State} (h : edge p s = .next t) :
    (p.rst = true ∧ t = s.resetRegisters) ∨ (p.rst = false ∧ p.cmd_valid = false ∧ t = s) ∨
    (p.rst = false ∧ p.cmd_valid = true ∧ exec (decode p.cmd) s = .next t) := by
  cases hr : p.rst with
  | true =>
    rw [edge_reset hr] at h
    injection h with h
    exact .inl ⟨rfl, h.symm⟩
  | false =>
    cases hv : p.cmd_valid with
    | false =>
      rw [edge_idle hr hv] at h
      injection h with h
      exact .inr (.inl ⟨rfl, rfl, h.symm⟩)
    | true =>
      rw [edge_command hr hv] at h
      exact .inr (.inr ⟨rfl, rfl, h⟩)

theorem step_cases {s t : State} (h : step s = .next t) :
    (s.port = [] ∧ t = s) ∨ ∃ p rest, s.port = p :: rest ∧ edge p (s.withPort rest) = .next t := by
  cases hport : s.port with
  | nil =>
    rw [step_of_nil hport] at h
    injection h with h
    exact .inl ⟨rfl, h.symm⟩
  | cons p rest =>
    rw [step_of_cons hport] at h
    exact .inr ⟨p, rest, rfl, h⟩

theorem port_of_edge {p : PortSample} {s t : State} (h : edge p s = .next t) : t.port = s.port := by
  obtain ⟨-, rfl⟩ | ⟨-, -, rfl⟩ | ⟨-, -, hexec⟩ := edge_cases h
  · rfl
  · rfl
  · exact port_of_exec hexec

/-- The ways out of INVALID at an edge. -/
theorem edge_leaves_invalid {p : PortSample} {s t : State} (hs : s.type_st = .invalid) (h : edge p s = .next t)
    (ht : t.type_st ≠ .invalid) : p.rst = true ∨ decode p.cmd = .typeClr ∨
      ∃ w, decode p.cmd = .typeLoad w ∧ validType w = true := by
  obtain ⟨hr, -⟩ | ⟨-, -, rfl⟩ | ⟨-, -, hexec⟩ := edge_cases h
  · exact .inl hr
  · exact absurd hs ht
  · exact .inr (typeClr_or_typeLoad_of_leaves_invalid hs hexec ht)

/-- Only a reset edge clears `err_cmd`. -/
theorem edge_clears_err_cmd {p : PortSample} {s t : State} (hs : s.err_cmd = true) (h : edge p s = .next t)
    (ht : t.err_cmd = false) : p.rst = true := by
  obtain ⟨hr, -⟩ | ⟨-, -, rfl⟩ | ⟨-, -, hexec⟩ := edge_cases h
  · exact hr
  · exact absurd hs (Bool.eq_false_iff.mp ht)
  · exact absurd (err_cmd_true_of_exec hexec hs) (Bool.eq_false_iff.mp ht)

/-! ### InvalidChunkType (60_exceptions.md R101, 41_type.md R79) -/

theorem validType_eq_false_iff (w : Word) : validType w = false ↔ ∃ b ∈ typeBytes w, isLetter b = false := by
  simp only [validType, List.all_eq_false, Bool.not_eq_true]

/-- The outputs while INVALID is recorded (10_state.md R18 to R20). -/
theorem outputs_of_invalid {S : Regs} (h : S.type_st = .invalid) : S.typeOut = 0 ∧ S.heldType = none ∧
    S.type_st.code = 0b10 ∧ S.out.is_critical = false ∧ S.out.is_public = false ∧
    S.out.is_reserved_bit_valid = false ∧ S.out.is_safe_to_copy = false := by
  have hv : S.type_st ≠ .valid := by simp [h]
  exact ⟨typeOut_of_not_valid hv, heldType_of_not_valid hv, by rw [h]; rfl, flags_of_not_valid hv⟩

/-- Settles O17: the tag has the one cause and the one effect, and the ways into and out of INVALID are those of a
command and an edge. -/
theorem invalidChunkTypeIsRecordedInTypeSt : Obligations.InvalidChunkTypeIsRecordedInTypeSt := by
  refine ⟨fun i s => ?_, fun _ _ => exec_of_invalidChunkType, fun _ _ _ => invalidChunkType_of_enters_invalid,
    fun w s t hw h => ?_, fun w w' s hw hw' => ?_, fun s t hs h ht => ?_,
    fun w s hw => ⟨_, exec_typeLoad_of_valid hw s, rfl⟩, fun s => ⟨_, exec_typeClr s, rfl⟩,
    fun s p rest hport hp => ⟨_, step_of_reset hp hport, rfl⟩, by decide, rfl⟩
  · simp only [resultTag_eq_invalidChunkType_iff, validType_eq_false_iff]
  · rw [exec_typeLoad_of_not_valid hw] at h
    injection h with h
    rw [← h]
    exact outputs_of_invalid rfl
  · rw [exec_typeLoad_of_not_valid hw, exec_typeLoad_of_not_valid hw']
  · obtain ⟨-, rfl⟩ | ⟨p, rest, hport, hedge⟩ := step_cases h
    · exact absurd hs ht
    · exact ⟨p, rest, hport, edge_leaves_invalid (s := s.withPort rest) hs hedge ht⟩

/-! ### IllegalCommand (60_exceptions.md R102) -/

theorem decode_eq_crcType_iff (cw : CommandWord) : decode cw = .crcType ↔ cw &&& 0xF00000000 = 0x300000000 := by
  constructor
  · intro h
    rw [and_opcodeMask_eq_iff 3 rfl, ← opcode_decode, h]
    rfl
  · exact decode_of_and_opcodeMask_eq 3 rfl

/-- Settles O18: the causes read off the word's opcode, the effect by the tag, and a step clears `err_cmd` only by an
edge with reset. -/
theorem illegalCommandIsStickyAndHarmless : Obligations.IllegalCommandIsStickyAndHarmless := by
  refine ⟨fun cw s => ?_, fun _ _ => exec_of_illegalCommand, fun _ _ _ => err_cmd_true_of_exec,
    fun s t hs h ht => ?_, fun _ _ _ => exec_raiseIllegalCommand, rfl⟩
  · rw [resultTag_eq_illegalCommand_iff, isReserved_decode_iff, decode_eq_crcType_iff, ne_valid_iff]
  · obtain ⟨-, rfl⟩ | ⟨p, rest, hport, hedge⟩ := step_cases h
    · exact absurd hs (Bool.eq_false_iff.mp ht)
    · exact ⟨p, rest, hport, edge_clears_err_cmd (s := s.withPort rest) hs hedge ht⟩

/-! ### Repetition and precedence (60_exceptions.md R105, R107) -/

/-- Settles O20: a load's tag and effect depend on its word alone, and an edge keeps the samples after its own. -/
theorem repeatingAFailedLoadFailsAgain : Obligations.RepeatingAFailedLoadFailsAgain := by
  refine ⟨fun w s t hw h => ?_, fun s t p rest hport h => ?_⟩
  · exact ⟨(resultTag_typeLoad_eq_invalidChunkType_iff w t).mpr hw, exec_typeLoad_again h⟩
  · rw [step_of_cons hport] at h
    exact port_of_edge h

/-- A command that enters INVALID has the tag INVALID_CHUNK_TYPE, so it keeps `err_cmd`. -/
theorem err_cmd_of_enters_invalid {i : Instr} {s t : State} (h : exec i s = .next t) (hs : s.type_st ≠ .invalid)
    (ht : t.type_st = .invalid) : t.err_cmd = s.err_cmd := by
  apply err_cmd_of_exec h
  rw [invalidChunkType_of_enters_invalid h hs ht]
  decide

/-- Settles O21: a command has one tag, each tag records at most its own error, and a reset sample gives `S0`. -/
theorem atMostOneErrorAndResetWins : Obligations.AtMostOneErrorAndResetWins := by
  refine ⟨resultTag_typeLoad_ne_illegalCommand, resultTag_crcType_ne_invalidChunkType,
    fun _ s hres => resultTag_of_isReserved hres s, fun _ _ => ⟨rfl, rfl, rfl, rfl⟩, fun i s t h hs he => ?_,
    fun _ _ _ _ => step_of_reset rfl rfl⟩
  rintro ⟨ht, herr⟩
  rw [err_cmd_of_enters_invalid h hs ht, he] at herr
  exact absurd herr (by decide)

end Sys2Proof.Machine
end

section
/-! PROOFS of the family 70_reset_and_hazards.md: an edge with reset, and commands of the two units next to each
other. -/

namespace Sys2Proof.Machine

/-! ### Reset (70_reset_and_hazards.md R120) -/

/-- A step that clears `err_cmd` took a reset sample: without a sample it answers its own state, and no other edge
clears it. -/
theorem reset_of_step_clears_err_cmd {s t : State} (h : step s = .next t) (hs : s.err_cmd = true)
    (ht : t.err_cmd = false) : ∃ p rest, s.port = p :: rest ∧ p.rst = true := by
  obtain ⟨-, rfl⟩ | ⟨p, rest, hport, hedge⟩ := step_cases h
  · exact absurd hs (Bool.eq_false_iff.mp ht)
  · exact ⟨p, rest, hport, edge_clears_err_cmd (s := s.withPort rest) hs hedge ht⟩

/-- Settles O9: the reset edge of each layer gives `S0` whatever the state, and only it clears `err_cmd`. -/
theorem resetEdgeGivesS0 : Obligations.ResetEdgeGivesS0 :=
  ⟨fun _ _ _ hport hp => step_of_reset hp hport, fun lat k _ hp => ⟨_, clockEdge_reset hp lat k, rfl, rfl⟩,
    fun _ _ => reset_of_step_clears_err_cmd⟩

/-! ### Commands of the two units next to each other (70_reset_and_hazards.md R130) -/

/-- The command overwrites the type registers with `w` and `tag`, reads no register and writes no other. -/
def WritesTypeAlone (i : Instr) (w : Word) (tag : TypeSt) : Prop :=
  ∀ S : Regs, execRegs i S = .next { S with type_r := w, type_st := tag }

theorem writesTypeAlone_typeClr : WritesTypeAlone .typeClr 0x00000000 .empty := fun _ => rfl

theorem writesTypeAlone_typeLoad_of_valid {w : Word} (hw : validType w = true) :
    WritesTypeAlone (.typeLoad w) w .valid :=
  fun S => execRegs_of_exec (exec_typeLoad_of_valid hw { toRegs := S, port := [] })

theorem writesTypeAlone_typeLoad_of_not_valid {w : Word} (hw : validType w = false) :
    WritesTypeAlone (.typeLoad w) 0x00000000 .invalid :=
  fun S => execRegs_of_exec (exec_typeLoad_of_not_valid hw { toRegs := S, port := [] })

theorem execRegs_crcByte (b : Byte) (S : Regs) :
    execRegs (.crcByte b) S = .next { S with crc_r := upd S.crc_r b } := rfl

/-- `CRC_BYTE` reads and writes `crc_r` alone, so it commutes with a command on the type registers alone. -/
theorem crcByte_comm_of_writesTypeAlone {i : Instr} {w : Word} {tag : TypeSt} (hi : WritesTypeAlone i w tag) (S : Regs)
    (b : Byte) : ∃ T, runInstrs S [.crcByte b, i] = .next T ∧ runInstrs S [i, .crcByte b] = .next T := by
  refine ⟨{ S with crc_r := upd S.crc_r b, type_r := w, type_st := tag }, ?_, ?_⟩
  · rw [runInstrs_cons_of_next _ (execRegs_crcByte b S), runInstrs_cons_of_next _ (hi _), runInstrs_nil]
  · rw [runInstrs_cons_of_next _ (hi S), runInstrs_cons_of_next _ (execRegs_crcByte b _), runInstrs_nil]

/-- `CRC_TYPE` directly after a successful `TYPE_LOAD` feeds the bytes of the word just loaded. -/
theorem runInstrs_typeLoad_crcType {w : Word} (hw : validType w = true) (S : Regs) :
    runInstrs S [.typeLoad w, .crcType] =
      .next { S with type_r := w, type_st := .valid, crc_r := crcRun S.crc_r (typeBytes w) } := by
  rw [runInstrs_cons_of_next _ (writesTypeAlone_typeLoad_of_valid hw S),
    runInstrs_cons_of_next _ (execRegs_crcType_of_valid rfl), runInstrs_nil]

/-- Settles O43: each type command writes the type registers alone, and a load holds its word at once. -/
theorem unitsNeedNoSpacing : Obligations.UnitsNeedNoSpacing := by
  refine ⟨fun S b w => ?_, fun S b => crcByte_comm_of_writesTypeAlone writesTypeAlone_typeClr S b,
    fun S _ hw => runInstrs_typeLoad_crcType hw S⟩
  cases hw : validType w with
  | true => exact crcByte_comm_of_writesTypeAlone (writesTypeAlone_typeLoad_of_valid hw) S b
  | false => exact crcByte_comm_of_writesTypeAlone (writesTypeAlone_typeLoad_of_not_valid hw) S b

end Sys2Proof.Machine
end

section
/-! PROOFS of the family of the encoder: decoding canonical words, canonical words of decoded ones, words the spec
writes out. -/

namespace Sys2Proof

theorem decode_commandWord (op : BitVec 4) (d : Word) :
    decode (commandWord op d) = decodeFields op (d.setWidth 8) d := by
  rw [decode, opcodeField_commandWord, byteField_commandWord, dataField_commandWord]

@[simp] theorem decode_encode (i : Instr) : decode (encode i) = i := by
  rw [encode, decode_commandWord]
  cases i with
  | crcByte b =>
    have hb : (b.setWidth 32).setWidth 8 = b := by simp
    exact congrArg Instr.crcByte hb
  | _ => rfl

/-- Settles O3: the canonical word carries the row's opcode and the operand where the decoder reads it. -/
theorem decodeEncodeIsIdentity : Obligations.DecodeEncodeIsIdentity := decode_encode

/-! ### Words whose ignored bits are 0 (30_encoding.md R41) -/

/-- A mask of data bits alone leaves the data under it. -/
theorem dataField_and_commandWord_zero (cw : CommandWord) (m : Word) :
    dataField (cw &&& commandWord 0 m) = dataField cw &&& m := by
  rw [← commandWord_fields cw, commandWord_and, dataField_commandWord, dataField_commandWord]

/-- Data without bits above bit 7 is its low byte. -/
theorem setWidth_setWidth_of_and_ignoredByteMask {d : Word} (h : d &&& 0xFFFFFF00 = 0) :
    (d.setWidth 8).setWidth 32 = d := by
  have hd : d.extractLsb' 8 24 ++ d.setWidth 8 = d := by
    rw [BitVec.setWidth_eq_extractLsb' (by decide)]
    exact BitVec.extractLsb'_append_extractLsb'
  have hhigh : d.extractLsb' 8 24 = 0 := by
    calc d.extractLsb' 8 24
        = (d &&& 0xFFFFFF00).extractLsb' 8 24 := by
          rw [BitVec.extractLsb'_and, show (0xFFFFFF00 : Word).extractLsb' 8 24 = BitVec.allOnes 24 from rfl,
            BitVec.and_allOnes]
      _ = 0 := by rw [h]; rfl
  calc (d.setWidth 8).setWidth 32
      = (0 : BitVec 24) ++ d.setWidth 8 := BitVec.setWidth_eq_append (by decide)
    _ = d.extractLsb' 8 24 ++ d.setWidth 8 := by rw [hhigh]
    _ = d := hd

theorem dataField_eq_zero {cw : CommandWord} (h : cw &&& 0x0FFFFFFFF = 0) : dataField cw = 0 := by
  calc dataField cw
      = dataField cw &&& 0xFFFFFFFF := (BitVec.and_allOnes (x := dataField cw)).symm
    _ = dataField (cw &&& 0x0FFFFFFFF) := (dataField_and_commandWord_zero cw 0xFFFFFFFF).symm
    _ = 0 := by rw [h]; rfl

/-- The operand of a `CRC_BYTE` word, put in its place, is the word's data when bits 31..8 are 0. -/
theorem setWidth_byteField {cw : CommandWord} (h : cw &&& 0x0FFFFFF00 = 0) :
    (byteField cw).setWidth 32 = dataField cw := by
  rw [byteField_eq_dataField]
  apply setWidth_setWidth_of_and_ignoredByteMask
  calc dataField cw &&& 0xFFFFFF00
      = dataField (cw &&& 0x0FFFFFF00) := (dataField_and_commandWord_zero cw 0xFFFFFF00).symm
    _ = 0 := by rw [h]; rfl

/-- Without a byte or word operand a decoded word's canonical data is 0. -/
theorem canonicalData_decode_eq_zero {cw : CommandWord} (h2 : opcodeField cw ≠ 2) (h4 : opcodeField cw ≠ 4) :
    (decode cw).canonicalData = 0 := by
  rw [← opcode_decode] at h2 h4
  apply canonicalData_eq_zero
  · intro b hb
    exact h2 (by rw [hb]; rfl)
  · intro w hw
    exact h4 (by rw [hw]; rfl)

/-- A word whose ignored bits are 0 has the canonical data of its instruction. -/
theorem canonicalData_decode {cw : CommandWord}
    (h2 : cw &&& 0xF00000000 = 0x200000000 → cw &&& 0x0FFFFFF00 = 0)
    (h : cw &&& 0xF00000000 ≠ 0x200000000 → cw &&& 0xF00000000 ≠ 0x400000000 → cw &&& 0x0FFFFFFFF = 0) :
    (decode cw).canonicalData = dataField cw := by
  rw [and_opcodeMask_eq_iff 2 rfl] at h2
  rw [ne_eq, ne_eq, and_opcodeMask_eq_iff 2 rfl, and_opcodeMask_eq_iff 4 rfl] at h
  by_cases hop2 : opcodeField cw = 2
  · rw [decode_of_opcode hop2]
    exact setWidth_byteField (h2 hop2)
  · by_cases hop4 : opcodeField cw = 4
    · rw [decode_of_opcode hop4]
      rfl
    · rw [canonicalData_decode_eq_zero hop2 hop4, dataField_eq_zero (h hop2 hop4)]

/-- Settles O4: a decoded instruction keeps the opcode, and its canonical data is the word's own when the ignored bits
are 0. -/
theorem encodeDecodeIsCanonical : Obligations.EncodeDecodeIsCanonical := by
  refine ⟨fun cw s => ?_, fun cw h2 h => ?_⟩
  · simp only [Machine.execWord, decode_encode]
  · rw [encode, opcode_decode, canonicalData_decode h2 h, commandWord_fields]

/-- Settles O5: by evaluating the decoder on the nine words. -/
theorem spelledOutWordsDecode : Obligations.SpelledOutWordsDecode := by
  unfold Obligations.SpelledOutWordsDecode
  decide

end Sys2Proof
end

section
/-! PROOFS of the families of the state and the step: the invariant, the frame of the commands, totality, the samples at
the port. -/

namespace Sys2Proof.Machine

/-! ### The state invariant (10_state.md R16) -/

/-- Letters held as VALID meet the invariant. -/
theorem inv_of_valid {S : Regs} (ht : S.type_st = .valid) (hw : validType S.type_r = true) : S.Inv :=
  ⟨fun _ => hw, fun hnv => absurd ht hnv⟩

/-- Nothing held, and the word 0, meets the invariant. -/
theorem inv_of_holdsNoCode {S : Regs} (h : S.HoldsNoCode) : S.Inv :=
  ⟨fun ht => absurd ht h.1, fun _ => h.2⟩

theorem inv_reset : Regs.reset.Inv := inv_of_holdsNoCode ⟨by simp, rfl⟩

theorem inv_of_exec {i : Instr} {s t : State} (hs : s.Inv) (h : exec i s = .next t) : t.Inv := by
  obtain ⟨-, rfl⟩ | ⟨-, rfl⟩ | ⟨b, -, rfl⟩ | ⟨-, -, rfl⟩ | ⟨-, -, rfl⟩ | ⟨w, -, hw, rfl⟩ | ⟨w, -, -, rfl⟩ | ⟨-, rfl⟩ |
    ⟨-, rfl⟩ := exec_cases h
  · exact hs
  · exact hs
  · exact hs
  · exact hs
  · exact hs
  · exact inv_of_valid rfl hw
  · exact inv_of_holdsNoCode ⟨by simp, rfl⟩
  · exact inv_of_holdsNoCode ⟨by simp, rfl⟩
  · exact hs

theorem inv_of_edge {p : PortSample} {s t : State} (hs : s.Inv) (h : edge p s = .next t) : t.Inv := by
  obtain ⟨-, rfl⟩ | ⟨-, -, rfl⟩ | ⟨-, -, hexec⟩ := edge_cases h
  · exact inv_reset
  · exact hs
  · exact inv_of_exec hs hexec

theorem inv_of_step {s t : State} (hs : s.Inv) (h : step s = .next t) : t.Inv := by
  obtain ⟨-, rfl⟩ | ⟨p, rest, -, hedge⟩ := step_cases h
  · exact hs
  · exact inv_of_edge (s := s.withPort rest) hs hedge

/-- Settles O24: after reset nothing is held and the word is 0. -/
theorem resetMeetsTheStateInvariant : Obligations.ResetMeetsTheStateInvariant := inv_reset

/-- Settles O25: a step is an edge or nothing, and an edge is a reset, nothing, or a command; each keeps the
invariant. -/
theorem stepKeepsTheStateInvariant : Obligations.StepKeepsTheStateInvariant := fun _ _ => inv_of_step

/-! ### The frame of the commands (10_state.md R15) -/

/-- Which commands write `crc_r`; they keep `err_cmd`. -/
theorem crc_r_frame {i : Instr} {s t : State} (h : exec i s = .next t) (hc : t.crc_r ≠ s.crc_r) :
    (i = .crcInit ∨ (∃ b, i = .crcByte b) ∨ (i = .crcType ∧ s.type_st = .valid)) ∧ t.err_cmd = s.err_cmd := by
  obtain ⟨-, rfl⟩ | ⟨hi, rfl⟩ | ⟨b, hi, rfl⟩ | ⟨hi, hv, rfl⟩ | ⟨-, -, rfl⟩ | ⟨w, -, -, rfl⟩ | ⟨w, -, -, rfl⟩ |
    ⟨-, rfl⟩ | ⟨-, rfl⟩ := exec_cases h
  · exact absurd rfl hc
  · exact ⟨.inl hi, rfl⟩
  · exact ⟨.inr (.inl ⟨b, hi⟩), rfl⟩
  · exact ⟨.inr (.inr ⟨hi, hv⟩), rfl⟩
  · exact absurd rfl hc
  · exact absurd rfl hc
  · exact absurd rfl hc
  · exact absurd rfl hc
  · exact absurd rfl hc

/-- Any command but the two type commands keeps the type registers. -/
theorem type_frame {i : Instr} {s t : State} (h : exec i s = .next t) (hload : ∀ w, i ≠ .typeLoad w)
    (hclr : i ≠ .typeClr) : t.type_r = s.type_r ∧ t.type_st = s.type_st := by
  obtain ⟨-, rfl⟩ | ⟨-, rfl⟩ | ⟨b, -, rfl⟩ | ⟨-, -, rfl⟩ | ⟨-, -, rfl⟩ | ⟨w, hi, -, -⟩ | ⟨w, hi, -, -⟩ | ⟨hi, -⟩ |
    ⟨-, rfl⟩ := exec_cases h
  · exact ⟨rfl, rfl⟩
  · exact ⟨rfl, rfl⟩
  · exact ⟨rfl, rfl⟩
  · exact ⟨rfl, rfl⟩
  · exact ⟨rfl, rfl⟩
  · exact absurd hi (hload w)
  · exact absurd hi (hload w)
  · exact absurd hi hclr
  · exact ⟨rfl, rfl⟩

theorem typeLoad_or_typeClr_of_changes_type {i : Instr} {s t : State} (h : exec i s = .next t)
    (hne : t.type_r ≠ s.type_r ∨ t.type_st ≠ s.type_st) : (∃ w, i = .typeLoad w) ∨ i = .typeClr := by
  by_contra hi
  obtain ⟨hload, hclr⟩ := not_or.mp hi
  obtain ⟨hw, ht⟩ := type_frame h (fun w hw => hload ⟨w, hw⟩) hclr
  exact hne.elim (· hw) (· ht)

/-- `err_cmd` changes only in a command tagged ILLEGAL_COMMAND, and those are the reserved ones and `CRC_TYPE` without a
valid code. -/
theorem illegal_of_changes_err_cmd {i : Instr} {s t : State} (h : exec i s = .next t) (hne : t.err_cmd ≠ s.err_cmd) :
    (i = .crcType ∧ s.type_st ≠ .valid) ∨ i.isReserved = true := by
  by_contra hi
  refine hne (err_cmd_of_exec h fun htag => hi ?_)
  exact ((resultTag_eq_illegalCommand_iff i s).mp htag).symm

/-- Settles O22: each register by the frame lemma of its commands. -/
theorem registersAreWrittenByTheirCommandsOnly : Obligations.RegistersAreWrittenByTheirCommandsOnly :=
  fun _ _ _ h => ⟨fun hc => (crc_r_frame h hc).1, typeLoad_or_typeClr_of_changes_type h, illegal_of_changes_err_cmd h,
    fun hc => (crc_r_frame h hc).2, port_of_exec h⟩

/-! ### Totality (42_misc.md R91) -/

theorem edge_total (p : PortSample) (s : State) : ∃ t, edge p s = .next t := by
  cases hr : p.rst with
  | true => exact ⟨_, edge_reset hr s⟩
  | false =>
    cases hv : p.cmd_valid with
    | false => exact ⟨_, edge_idle hr hv s⟩
    | true =>
      rw [edge_command hr hv]
      exact exec_total _ s

theorem step_total (s : State) : ∃ t, step s = .next t := by
  cases hport : s.port with
  | nil => exact ⟨_, step_of_nil hport⟩
  | cons p rest =>
    rw [step_of_cons hport]
    exact edge_total p _

/-- Settles O23: every command completes, so every edge does, so every step does. -/
theorem everyCommandAndStepCompletes : Obligations.EveryCommandAndStepCompletes := ⟨exec_total, step_total⟩

/-! ### A number of steps -/

/-- The first of a number of steps, when it answers a next state. -/
theorem run_succ_of_next {s s' : State} (n : Nat) (h : step s = .next s') :
    Host.Core.run core (n + 1) s = Host.Core.run core n s' := by
  have hcore : core.step s = .next s' := h
  simp only [Host.Core.run, hcore]

/-- What every step keeps holds after any number of steps, and they complete. -/
theorem exists_run_of_step_keeps {P : State → Prop} (hstep : ∀ s t, P s → step s = .next t → P t) (n : Nat) {s : State}
    (hs : P s) : ∃ t : State, Host.Core.run core n s = .next t ∧ P t := by
  induction n generalizing s with
  | zero => exact ⟨s, rfl, hs⟩
  | succ n ih =>
    obtain ⟨s', hs'⟩ := step_total s
    rw [run_succ_of_next n hs']
    exact ih (hstep s s' hs hs')

theorem TypeSt.code_ne_three (t : TypeSt) : t.code ≠ 0b11 := by
  cases t <;> decide

/-- Settles O26: the invariant holds at reset and every step keeps it. -/
theorem everyHostRunFromResetCompletesInTheInvariant : Obligations.EveryHostRunFromResetCompletesInTheInvariant := by
  intro ps n
  obtain ⟨t, hrun, hinv⟩ := exists_run_of_step_keeps (P := fun s => s.Inv) (fun _ _ => inv_of_step) n
    (s := { State.reset with port := ps }) inv_reset
  exact ⟨t, hrun, hinv, TypeSt.code_ne_three t.type_st⟩

/-! ### The next sample (log 1, log 2, log 3) -/

/-- Settles O6: the three cases of a step without reset. -/
theorem stepRunsThePresentedCommand : Obligations.StepRunsThePresentedCommand :=
  ⟨fun _ _ _ hport hr => ⟨fun hv => step_of_command hr hv hport, fun hv => step_of_idle hr hv hport⟩,
    fun _ => step_of_nil⟩

/-- The word presented is the next one taken, and the host's other samples stand as before. -/
theorem step_present (s : State) (cw : CommandWord) : step (s.present cw) = exec (decode cw) s :=
  step_of_command (p := commandSample cw) rfl rfl rfl

/-- Settles O7: a number of at most 36 bits is a command word, and `withFetchWord` presents it. -/
theorem stepRunsTheTableWord : Obligations.StepRunsTheTableWord := by
  intro s nbits w hn hw
  have hword : tableWord nbits w = some (BitVec.ofNat 36 w) := tableWord_of_lt hn hw
  constructor
  · rw [decodeTableWord, hword, Option.map_some]
  · simp only [State.withFetchWord, State.presentTableWord, hword, step_present]

/-- A command on a state is the command on its registers, the samples to come kept. -/
theorem exec_eq_next_iff (i : Instr) (s t : State) :
    exec i s = .next t ↔ execRegs i s.toRegs = .next t.toRegs ∧ t.port = s.port := by
  constructor
  · intro h
    exact ⟨execRegs_of_exec h, port_of_exec h⟩
  · rintro ⟨hregs, hport⟩
    have ht : t = { toRegs := t.toRegs, port := s.port } := State.eq_of_toRegs rfl hport
    rw [ht]
    exact exec_of_execRegs hregs s.port

theorem acceptWord_total (cw : CommandWord) (S : Regs) : ∃ T, acceptWord cw S = .next T := execRegs_total _ S

/-- The first word of a run (42_misc.md R93). -/
theorem runs_cons_of_next {S T : Regs} {cw : CommandWord} (cws : List CommandWord) (h : acceptWord cw S = .next T) :
    runs S (cw :: cws) = runs T cws := runInstrs_cons_of_next _ h

/-- A step on a command sample accepts its word. -/
theorem step_of_acceptWord {p : PortSample} {S T : Regs} (hr : p.rst = false) (hv : p.cmd_valid = true)
    (h : acceptWord p.cmd S = .next T) (ps : List PortSample) :
    step { toRegs := S, port := p :: ps } = .next { toRegs := T, port := ps } :=
  (step_of_command hr hv rfl).trans (exec_of_execRegs h ps)

/-- Words presented one after another are accepted one a step, as `runs` accepts them. -/
theorem run_commandSamples (S : Regs) (cws : List CommandWord) (ps : List PortSample) : ∃ T, runs S cws = .next T ∧
    Host.Core.run core cws.length ({ toRegs := S, port := cws.map commandSample ++ ps } : State) =
      .next ({ toRegs := T, port := ps } : State) := by
  induction cws generalizing S with
  | nil => exact ⟨S, rfl, rfl⟩
  | cons cw cws ih =>
    obtain ⟨S', hS'⟩ := acceptWord_total cw S
    obtain ⟨T, hruns, hrun⟩ := ih S'
    refine ⟨T, (runs_cons_of_next cws hS').trans hruns, ?_⟩
    have hstep := step_of_acceptWord (p := commandSample cw) rfl rfl hS' (cws.map commandSample ++ ps)
    exact (run_succ_of_next cws.length hstep).trans hrun

/-- Settles O27: a command does not read the port, and each word presented is one word of the run. -/
theorem wordsAtThePortRunAsAnInputList : Obligations.WordsAtThePortRunAsAnInputList := by
  refine ⟨exec_eq_next_iff, fun S cw cws => ?_, run_commandSamples⟩
  obtain ⟨T, hT⟩ := acceptWord_total cw S
  exact ⟨T, hT, runs_cons_of_next cws hT⟩

end Sys2Proof.Machine
end

section
/-! PROOFS of the families of runs (42_misc.md R93) and of the sequence laws of the two units: what any run keeps, which
registers of two runs agree, and the results of the sequences that the spec names. -/

namespace Sys2Proof.Machine

/-! ### Induction over a run -/

theorem runInstrs_total (S : Regs) (is : List Instr) : ∃ T, runInstrs S is = .next T := by
  induction is generalizing S with
  | nil => exact ⟨S, rfl⟩
  | cons i is ih =>
    obtain ⟨S', hS'⟩ := execRegs_total i S
    rw [runInstrs_cons_of_next is hS']
    exact ih S'

/-- A run that completes, taken apart at its first command. -/
theorem exists_of_runInstrs_cons {i : Instr} {is : List Instr} {S T : Regs} (h : runInstrs S (i :: is) = .next T) :
    ∃ M, execRegs i S = .next M ∧ runInstrs M is = .next T := by
  obtain ⟨M, hM⟩ := execRegs_total i S
  exact ⟨M, hM, runInstrs_cons_of_next is hM ▸ h⟩

/-- A relation between two register files that every command of a sequence keeps is kept by the run over it. -/
theorem runInstrs_rel {R : Regs → Regs → Prop} {is : List Instr}
    (hstep : ∀ i ∈ is, ∀ S S' T T', R S S' → execRegs i S = .next T → execRegs i S' = .next T' → R T T')
    {S S' T T' : Regs} (hR : R S S') (h : runInstrs S is = .next T) (h' : runInstrs S' is = .next T') : R T T' := by
  induction is generalizing S S' with
  | nil =>
    injection h with h
    injection h' with h'
    exact h ▸ h' ▸ hR
  | cons i is ih =>
    obtain ⟨M, hM, hrun⟩ := exists_of_runInstrs_cons h
    obtain ⟨M', hM', hrun'⟩ := exists_of_runInstrs_cons h'
    have hfirst : R M M' := hstep i List.mem_cons_self S S' M M' hR hM hM'
    exact ih (fun j hj => hstep j (List.mem_cons_of_mem i hj)) hfirst hrun hrun'

/-- The same of one register file. -/
theorem runInstrs_keeps {P : Regs → Prop} {is : List Instr}
    (hstep : ∀ i ∈ is, ∀ S T, P S → execRegs i S = .next T → P T) {S T : Regs} (hS : P S)
    (h : runInstrs S is = .next T) : P T :=
  runInstrs_rel (R := fun S _ => P S) (fun i hi S _ T _ hS hT _ => hstep i hi S T hS hT) hS h h

/-! ### What `err_cmd` records -/

/-- The words that raise IllegalCommand in `S` (60_exceptions.md R102). -/
def IllegalWord (S : Regs) (cw : CommandWord) : Prop :=
  0x600000000 ≤ cw ∨ (cw &&& 0xF00000000 = 0x300000000 ∧ S.type_st ≠ .valid)

theorem resultTag_decode_eq_illegalCommand_iff (cw : CommandWord) (s : State) :
    resultTag (decode cw) s = .illegalCommand ↔ IllegalWord s.toRegs cw := by
  rw [resultTag_eq_illegalCommand_iff, isReserved_decode_iff, decode_eq_crcType_iff, IllegalWord]

theorem err_cmd_of_acceptWord {cw : CommandWord} {S T : Regs} (h : acceptWord cw S = .next T) :
    T.err_cmd = true ↔ S.err_cmd = true ∨ IllegalWord S cw := by
  have hexec := exec_of_execRegs h []
  by_cases htag : resultTag (decode cw) { toRegs := S, port := [] } = .illegalCommand
  · have hT : T.err_cmd = true := by
      rw [exec_of_illegalCommand htag] at hexec
      injection hexec with hexec
      exact (congrArg (·.err_cmd) hexec).symm
    exact iff_of_true hT (.inr ((resultTag_decode_eq_illegalCommand_iff cw _).mp htag))
  · have hT : T.err_cmd = S.err_cmd := err_cmd_of_exec hexec htag
    rw [resultTag_decode_eq_illegalCommand_iff] at htag
    rw [hT, or_iff_left htag]

/-- Some word of a run raises IllegalCommand in the state its predecessors left. -/
def IllegalAlong (S : Regs) (cws : List CommandWord) : Prop :=
  ∃ before cw after M, cws = before ++ cw :: after ∧ runs S before = .next M ∧ IllegalWord M cw

theorem not_illegalAlong_nil (S : Regs) : ¬ IllegalAlong S [] := by
  rintro ⟨before, cw, after, M, hsplit, -, -⟩
  simp at hsplit

theorem illegalAlong_cons_iff {S M : Regs} {cw : CommandWord} (cws : List CommandWord)
    (h : acceptWord cw S = .next M) : IllegalAlong S (cw :: cws) ↔ IllegalWord S cw ∨ IllegalAlong M cws := by
  constructor
  · rintro ⟨before, bad, after, N, hsplit, hruns, hbad⟩
    cases before with
    | nil =>
      injection hsplit with hcw hcws
      injection hruns with hruns
      exact .inl (hcw ▸ hruns ▸ hbad)
    | cons first before =>
      injection hsplit with hcw hcws
      rw [← hcw, runs_cons_of_next before h] at hruns
      exact .inr ⟨before, bad, after, N, hcws, hruns, hbad⟩
  · rintro (hbad | ⟨before, bad, after, N, hsplit, hruns, hbad⟩)
    · exact ⟨[], cw, cws, S, rfl, rfl, hbad⟩
    · exact ⟨cw :: before, bad, after, N, congrArg (cw :: ·) hsplit, (runs_cons_of_next before h).trans hruns, hbad⟩

theorem err_cmd_of_runs {S T : Regs} {cws : List CommandWord} (h : runs S cws = .next T) :
    T.err_cmd = true ↔ S.err_cmd = true ∨ IllegalAlong S cws := by
  induction cws generalizing S with
  | nil =>
    injection h with h
    rw [h, or_iff_left (not_illegalAlong_nil T)]
  | cons cw cws ih =>
    obtain ⟨M, hM⟩ := acceptWord_total cw S
    rw [runs_cons_of_next cws hM] at h
    rw [ih h, err_cmd_of_acceptWord hM, illegalAlong_cons_iff cws hM, or_assoc]

/-- Settles O28: word by word, `err_cmd` is set by the illegal ones and kept by the others. -/
theorem errCmdRecordsExactlyTheIllegalCommands : Obligations.ErrCmdRecordsExactlyTheIllegalCommands :=
  fun _ _ _ => err_cmd_of_runs

/-! ### What the two units read (42_misc.md R93) -/

/-- `crc_r` after a command, from `crc_r` and the type registers before it. -/
def nextCrc (i : Instr) (c w : Word) (tag : TypeSt) : Word :=
  match i with
  | .crcInit => crcInitValue
  | .crcByte b => upd c b
  | .crcType => if tag = .valid then crcRun c (typeBytes w) else c
  | _ => c

/-- The type registers after a command, from the type registers before it. -/
def nextType (i : Instr) (w : Word) (tag : TypeSt) : Word × TypeSt :=
  match i with
  | .typeLoad v => if validType v = true then (v, .valid) else (0x00000000, .invalid)
  | .typeClr => (0x00000000, .empty)
  | _ => (w, tag)

theorem crc_r_of_execRegs {i : Instr} {S T : Regs} (h : execRegs i S = .next T) :
    T.crc_r = nextCrc i S.crc_r S.type_r S.type_st := by
  obtain ⟨rfl, rfl⟩ | ⟨rfl, rfl⟩ | ⟨b, rfl, rfl⟩ | ⟨rfl, hv, rfl⟩ | ⟨rfl, hv, rfl⟩ | ⟨w, rfl, hw, rfl⟩ |
    ⟨w, rfl, hw, rfl⟩ | ⟨rfl, rfl⟩ | ⟨hres, rfl⟩ := execRegs_cases h
  · rfl
  · rfl
  · rfl
  · exact (if_pos hv).symm
  · exact (if_neg hv).symm
  · rfl
  · rfl
  · rfl
  · cases i with
    | crcInit | crcByte | crcType => exact absurd hres (by simp [Instr.isReserved, Instr.opcode])
    | _ => rfl

theorem type_of_execRegs {i : Instr} {S T : Regs} (h : execRegs i S = .next T) :
    (T.type_r, T.type_st) = nextType i S.type_r S.type_st := by
  obtain ⟨rfl, rfl⟩ | ⟨rfl, rfl⟩ | ⟨b, rfl, rfl⟩ | ⟨rfl, hv, rfl⟩ | ⟨rfl, hv, rfl⟩ | ⟨w, rfl, hw, rfl⟩ |
    ⟨w, rfl, hw, rfl⟩ | ⟨rfl, rfl⟩ | ⟨hres, rfl⟩ := execRegs_cases h
  · rfl
  · rfl
  · rfl
  · rfl
  · rfl
  · exact (if_pos hw).symm
  · exact (if_neg (Bool.eq_false_iff.mp hw)).symm
  · rfl
  · cases i with
    | typeLoad | typeClr => exact absurd hres (by simp [Instr.isReserved, Instr.opcode])
    | _ => rfl

/-- Only `CRC_TYPE` reads the type registers for `crc_r`. -/
theorem nextCrc_of_ne_crcType {i : Instr} (hi : i ≠ .crcType) (c w w' : Word) (tag tag' : TypeSt) :
    nextCrc i c w tag = nextCrc i c w' tag' := by
  cases i with
  | crcType => exact absurd rfl hi
  | _ => rfl

/-- The type units agree. -/
def SameType (S S' : Regs) : Prop := S.type_r = S'.type_r ∧ S.type_st = S'.type_st

theorem sameType_of_execRegs {i : Instr} {S S' T T' : Regs} (hs : SameType S S') (h : execRegs i S = .next T)
    (h' : execRegs i S' = .next T') : SameType T T' := by
  obtain ⟨hw, ht⟩ := hs
  have hpair : (T.type_r, T.type_st) = (T'.type_r, T'.type_st) := by
    rw [type_of_execRegs h, type_of_execRegs h', hw, ht]
  exact Prod.mk.inj hpair

theorem sameType_of_runInstrs {is : List Instr} {S S' T T' : Regs} (hs : SameType S S')
    (h : runInstrs S is = .next T) (h' : runInstrs S' is = .next T') : SameType T T' :=
  runInstrs_rel (fun _ _ _ _ _ _ => sameType_of_execRegs) hs h h'

theorem crc_r_eq_of_runInstrs_of_sameType {is : List Instr} {S S' T T' : Regs} (hc : S.crc_r = S'.crc_r)
    (hs : SameType S S') (h : runInstrs S is = .next T) (h' : runInstrs S' is = .next T') : T.crc_r = T'.crc_r := by
  have hboth : T.crc_r = T'.crc_r ∧ SameType T T' := by
    refine runInstrs_rel (R := fun S S' => S.crc_r = S'.crc_r ∧ SameType S S') ?_ ⟨hc, hs⟩ h h'
    rintro i - S S' T T' ⟨hc, hs⟩ h h'
    refine ⟨?_, sameType_of_execRegs hs h h'⟩
    rw [crc_r_of_execRegs h, crc_r_of_execRegs h', hc, hs.1, hs.2]
  exact hboth.1

theorem crc_r_eq_of_runInstrs_of_no_crcType {is : List Instr} (his : .crcType ∉ is) {S S' T T' : Regs}
    (hc : S.crc_r = S'.crc_r) (h : runInstrs S is = .next T) (h' : runInstrs S' is = .next T') :
    T.crc_r = T'.crc_r := by
  refine runInstrs_rel (R := fun S S' => S.crc_r = S'.crc_r) ?_ hc h h'
  intro i hi S S' T T' hc h h'
  rw [crc_r_of_execRegs h, crc_r_of_execRegs h', hc]
  exact nextCrc_of_ne_crcType (fun heq => his (heq ▸ hi)) ..

/-- Settles O29: a command's next type registers are a function of the type registers, its next `crc_r` of `crc_r` and,
for `CRC_TYPE` alone, of the type registers. -/
theorem unitsInfluenceEachOtherOnlyThroughCrcType : Obligations.UnitsInfluenceEachOtherOnlyThroughCrcType :=
  fun _ _ _ _ _ h h' => ⟨fun hw ht => sameType_of_runInstrs ⟨hw, ht⟩ h h',
    fun hc hw ht => crc_r_eq_of_runInstrs_of_sameType hc ⟨hw, ht⟩ h h',
    fun hc his => crc_r_eq_of_runInstrs_of_no_crcType his hc h h'⟩

/-! ### `NOP` in a run -/

theorem runInstrs_withoutNops (S : Regs) (is : List Instr) : runInstrs S (withoutNops is) = runInstrs S is := by
  induction is generalizing S with
  | nil => rfl
  | cons i is ih =>
    by_cases hi : i = .nop
    · subst hi
      exact ih S
    · have hkeep : withoutNops (i :: is) = i :: withoutNops is := List.filter_cons_of_pos (decide_eq_true hi)
      obtain ⟨M, hM⟩ := execRegs_total i S
      rw [hkeep, runInstrs_cons_of_next _ hM, runInstrs_cons_of_next _ hM, ih]

/-! ### The CRC unit's sequence laws (40_crc.md R61, R63, R64) -/

theorem err_cmd_of_execRegs {i : Instr} {S T : Regs} (h : execRegs i S = .next T) (hres : i.isReserved = false)
    (hcrc : i = .crcType → S.type_st = .valid) : T.err_cmd = S.err_cmd := by
  refine err_cmd_of_exec (exec_of_execRegs h []) fun htag => ?_
  obtain hr | ⟨hi, hv⟩ := (resultTag_eq_illegalCommand_iff i _).mp htag
  · exact absurd hr (Bool.eq_false_iff.mp hres)
  · exact hv (hcrc hi)

theorem isReserved_eq_false_of_interleaves {i : Instr} (h : interleaves i) : i.isReserved = false ∧ i ≠ .crcType := by
  obtain rfl | ⟨b, rfl⟩ | ⟨w, rfl⟩ | rfl := h
  · decide
  · exact ⟨rfl, by simp⟩
  · exact ⟨rfl, by simp⟩
  · decide

theorem err_cmd_of_runInstrs_interleaves {is : List Instr} (his : ∀ i ∈ is, interleaves i) {S T : Regs}
    (h : runInstrs S is = .next T) : T.err_cmd = S.err_cmd := by
  refine runInstrs_keeps (P := fun M => M.err_cmd = S.err_cmd) (fun i hi M N hM hN => ?_) rfl h
  obtain ⟨hres, hne⟩ := isReserved_eq_false_of_interleaves (his i hi)
  exact (err_cmd_of_execRegs hN hres fun heq => absurd heq hne).trans hM

/-- Among commands that may stand between the bytes only `CRC_BYTE` feeds. -/
theorem bytesFed_of_interleaves {is : List Instr} (his : ∀ i ∈ is, interleaves i) (held : Option Word)
    (acc : List Byte) : bytesFed held acc is = acc ++ fedBytes is := by
  induction is generalizing held acc with
  | nil => exact (List.append_nil acc).symm
  | cons i is ih =>
    have ih := ih fun j hj => his j (List.mem_cons_of_mem i hj)
    obtain rfl | ⟨b, rfl⟩ | ⟨w, rfl⟩ | rfl := his i List.mem_cons_self
    · exact ih held acc
    · exact (ih held (acc ++ [b])).trans (List.append_assoc acc [b] (fedBytes is))
    · exact ih _ acc
    · exact ih none acc

/-- Interleaved bytes after a fresh start: the checksum, and `err_cmd` as it was. -/
theorem crc_out_of_interleaves {S : Regs} (hc : S.crc_r = crcInitValue) {is : List Instr}
    (his : ∀ i ∈ is, interleaves i) :
    ∃ T, runInstrs S is = .next T ∧ T.out.crc_out = checksum (fedBytes is) ∧ T.err_cmd = S.err_cmd := by
  obtain ⟨T, hrun, hout⟩ := crc_out_of_runInstrs (before := []) is hc
  refine ⟨T, hrun, ?_, err_cmd_of_runInstrs_interleaves his hrun⟩
  rw [hout, bytesFed_of_interleaves his, List.nil_append]

/-- Settles O39: `CRC_INIT` and reset both leave the initial value, from which interleaved bytes give their
checksum. -/
theorem interleavedBytesGiveTheirChecksum : Obligations.InterleavedBytesGiveTheirChecksum := by
  refine ⟨fun S is his => ?_, fun S is hS his => ?_⟩
  · rw [runInstrs_cons_of_next is (S' := { S with crc_r := crcInitValue }) rfl]
    exact crc_out_of_interleaves rfl his
  · cases hS
    exact crc_out_of_interleaves rfl his

/-- Settles O40: the four bytes of `CRC_TYPE` are fed one after another. -/
theorem crcTypeIsFourCrcBytes : Obligations.CrcTypeIsFourCrcBytes := by
  intro S hv
  rw [execRegs_crcType_of_valid hv]
  rfl

/-- `CHUNK_CRC`'s commands after its load: none changes the type registers or `err_cmd` while a valid code is held. -/
theorem held_of_runInstrs_chunk {S T : Regs} {ds : List Byte} (hv : S.type_st = .valid)
    (h : runInstrs S (.crcInit :: .crcType :: ds.map .crcByte) = .next T) :
    SameType T S ∧ T.err_cmd = S.err_cmd := by
  refine runInstrs_keeps (P := fun M => SameType M S ∧ M.err_cmd = S.err_cmd) ?_ ⟨⟨rfl, rfl⟩, rfl⟩ h
  rintro i hi M N ⟨hM, he⟩ hN
  have hkind : i = .crcInit ∨ i = .crcType ∨ ∃ b, i = .crcByte b := by
    simp only [List.mem_cons, List.mem_map] at hi
    obtain hi | hi | ⟨b, -, hi⟩ := hi
    · exact .inl hi
    · exact .inr (.inl hi)
    · exact .inr (.inr ⟨b, hi.symm⟩)
  have hsame : SameType N M := by
    apply type_frame (exec_of_execRegs hN [])
    · rintro w rfl
      simp at hkind
    · rintro rfl
      simp at hkind
  have herr : N.err_cmd = M.err_cmd := by
    apply err_cmd_of_execRegs hN
    · obtain rfl | rfl | ⟨b, rfl⟩ := hkind <;> rfl
    · exact fun _ => hM.2.trans hv
  exact ⟨⟨hsame.1.trans hM.1, hsame.2.trans hM.2⟩, herr.trans he⟩

/-- Settles O41: the checksum by the bytes fed, the type registers and `err_cmd` by what the commands after the load
keep. -/
theorem chunkSequenceGivesTheChunkChecksum : Obligations.ChunkSequenceGivesTheChunkChecksum := by
  intro S w ds hw
  obtain ⟨T, hrun, hout⟩ := crc_out_of_chunkCrc S w ds
  refine ⟨T, hrun, hout hw, ?_⟩
  rw [runInstrs_cons_of_next _ (writesTypeAlone_typeLoad_of_valid hw S)] at hrun
  obtain ⟨⟨hword, htag⟩, herr⟩ := held_of_runInstrs_chunk rfl hrun
  exact ⟨(typeOut_of_valid htag).trans hword, herr⟩

/-! ### The type unit's sequence law (41_type.md R82) -/

theorem sameType_of_runInstrs_no_type {is : List Instr} (his : ∀ i ∈ is, (∀ w, i ≠ .typeLoad w) ∧ i ≠ .typeClr)
    {S T : Regs} (h : runInstrs S is = .next T) : SameType T S := by
  refine runInstrs_keeps (P := fun M => SameType M S) (fun i hi M N hM hN => ?_) ⟨rfl, rfl⟩ h
  obtain ⟨hload, hclr⟩ := his i hi
  obtain ⟨hword, htag⟩ := type_frame (exec_of_execRegs hN []) hload hclr
  exact ⟨hword.trans hM.1, htag.trans hM.2⟩

/-- While a valid code is held, the ports show its word and its flags (10_state.md R18, R19). -/
theorem outputs_of_valid {S : Regs} (h : S.type_st = .valid) : S.out.type_out = S.type_r ∧
    S.out.is_critical = critical S.type_r ∧ S.out.is_public = publicBit S.type_r ∧
    S.out.is_reserved_bit_valid = reservedBitValid S.type_r ∧ S.out.is_safe_to_copy = safeToCopy S.type_r := by
  simp [typeOut_of_valid h, holdsType_of_valid h]

/-- Settles O42: the load writes the type registers by validity, and no later command changes them. -/
theorem loadedTypeStaysOnTheOutputs : Obligations.LoadedTypeStaysOnTheOutputs := by
  intro S w is his
  cases hw : validType w with
  | true =>
    obtain ⟨T, hrun⟩ := runInstrs_total { S with type_r := w, type_st := .valid } is
    obtain ⟨hword, htag⟩ := sameType_of_runInstrs_no_type his hrun
    refine ⟨T, (runInstrs_cons_of_next is (writesTypeAlone_typeLoad_of_valid hw S)).trans hrun, by simp [htag], ?_⟩
    intro _
    have hout := outputs_of_valid (S := T) htag
    rwa [hword] at hout
  | false =>
    obtain ⟨T, hrun⟩ := runInstrs_total { S with type_r := 0x00000000, type_st := .invalid } is
    obtain ⟨-, htag⟩ := sameType_of_runInstrs_no_type his hrun
    exact ⟨T, (runInstrs_cons_of_next is (writesTypeAlone_typeLoad_of_not_valid hw S)).trans hrun, by simp [htag],
      by simp⟩

end Sys2Proof.Machine
end

section
/-! PROOFS of the families of the CRC functions (40_crc.md R53 to R58, R66), of the shift register of a bit-serial
build, and of the type functions (41_type.md R70, R83, R84). -/

namespace Sys2Proof.Machine

/-! ### The byte update is linear (40_crc.md R66) -/

theorem byteBits_zero : byteBits 0x00 = List.replicate 8 false := by decide

theorem shift8_eq_upd (v : Word) : shift8 v = upd v 0x00 := by
  rw [shift8, upd, byteBits_zero]

theorem upd_xor (c c' : Word) (b b' : Byte) : upd (c ^^^ c') (b ^^^ b') = upd c b ^^^ upd c' b' := by
  simp only [upd_eq_bitsteps, BitVec.getElem_xor, bitstep_xor]

theorem shift8_xor (c c' : Word) : shift8 (c ^^^ c') = shift8 c ^^^ shift8 c' := by
  have h0 : (0x00 : Byte) = 0x00 ^^^ 0x00 := rfl
  simp only [shift8_eq_upd]
  rw [h0, upd_xor]
  rfl

/-- A data bit equal to bit 0 of the register meets it to no feedback. -/
theorem bitstep_getLsbD_zero (c : Word) : bitstep c (c.getLsbD 0) = c >>> 1 :=
  bitstep_of_no_feedback (Bool.xor_self _)

/-- Fed its own low byte a register just shifts it out: no step has feedback. -/
theorem upd_setWidth (c : Word) : upd c (c.setWidth 8) = c >>> 8 := by
  have hbits : byteBits (c.setWidth 8) = [c.getLsbD 0, (c >>> 1).getLsbD 0, (c >>> 1 >>> 1).getLsbD 0,
      (c >>> 1 >>> 1 >>> 1).getLsbD 0, (c >>> 1 >>> 1 >>> 1 >>> 1).getLsbD 0,
      (c >>> 1 >>> 1 >>> 1 >>> 1 >>> 1).getLsbD 0, (c >>> 1 >>> 1 >>> 1 >>> 1 >>> 1 >>> 1).getLsbD 0,
      (c >>> 1 >>> 1 >>> 1 >>> 1 >>> 1 >>> 1 >>> 1).getLsbD 0] := by
    simp [byteBits]
  rw [upd, hbits]
  simp only [List.foldl_cons, List.foldl_nil, bitstep_getLsbD_zero, ← BitVec.shiftRight_add]

theorem setWidth_ushiftRight_eight (b : Byte) : b.setWidth 32 >>> 8 = 0 := by
  apply BitVec.eq_of_toNat_eq
  have := b.isLt
  simp [Nat.shiftRight_eq_div_pow]
  omega

/-- A byte in the register and a byte fed to it are shifted alike. -/
theorem shift8_setWidth (b : Byte) : shift8 (b.setWidth 32) = upd 0x00000000 b := by
  have hlow : (b.setWidth 32).setWidth 8 = b := by simp
  have hgone : upd (b.setWidth 32) b = 0x00000000 := by
    calc upd (b.setWidth 32) b
        = upd (b.setWidth 32) ((b.setWidth 32).setWidth 8) := by rw [hlow]
      _ = b.setWidth 32 >>> 8 := upd_setWidth _
      _ = 0 := setWidth_ushiftRight_eight b
  calc shift8 (b.setWidth 32)
      = upd (b.setWidth 32 ^^^ 0) (b ^^^ b) := by rw [shift8_eq_upd]; simp
    _ = upd (b.setWidth 32) b ^^^ upd 0 b := upd_xor _ _ _ _
    _ = upd 0x00000000 b := by rw [hgone]; simp

theorem crcTable_eq_upd (i : Byte) : crcTable i = upd 0x00000000 i := shift8_setWidth i

/-- The byte may be put into the register first (40_crc.md R53). -/
theorem upd_eq_shift8 (c : Word) (b : Byte) : upd c b = shift8 (c ^^^ b.setWidth 32) := by
  calc upd c b
      = upd (c ^^^ 0) (0x00 ^^^ b) := by simp
    _ = upd c 0x00 ^^^ upd 0 b := upd_xor _ _ _ _
    _ = shift8 c ^^^ shift8 (b.setWidth 32) := by rw [shift8_eq_upd, shift8_setWidth]
    _ = shift8 (c ^^^ b.setWidth 32) := (shift8_xor _ _).symm

/-! ### The table (40_crc.md R54, R55, R56) -/

/-- Eight steps at once: the low byte by the table, the rest shifted. -/
theorem shift8_eq_crcTable (v : Word) : shift8 v = crcTable (v.setWidth 8) ^^^ v >>> 8 := by
  calc shift8 v
      = upd (v ^^^ 0) (v.setWidth 8 ^^^ v.setWidth 8) := by rw [shift8_eq_upd]; simp
    _ = upd v (v.setWidth 8) ^^^ upd 0 (v.setWidth 8) := upd_xor _ _ _ _
    _ = crcTable (v.setWidth 8) ^^^ v >>> 8 := by rw [upd_setWidth, crcTable_eq_upd, BitVec.xor_comm]

theorem updTab_eq_upd (c : Word) (b : Byte) : updTab c b = upd c b := by
  have hshift : (c ^^^ b.setWidth 32) >>> 8 = c >>> 8 := by
    rw [BitVec.ushiftRight_xor_distrib, setWidth_ushiftRight_eight]
    exact BitVec.xor_zero
  rw [upd_eq_shift8, shift8_eq_crcTable, hshift, updTab]

/-- The listing is the formula at 0 to 255, by evaluation. -/
theorem crcRom_eq_map : crcRom = (List.range 256).map fun n => crcTable (BitVec.ofNat 8 n) := by decide +kernel

theorem getElem?_crcRom (i : Byte) : crcRom[i.toNat]? = some (crcTable i) := by
  rw [crcRom_eq_map, List.getElem?_map, List.getElem?_range i.isLt, Option.map_some, BitVec.ofNat_toNat,
    BitVec.setWidth_eq]

theorem updRom_eq_updTab (c : Word) (b : Byte) : updRom c b = updTab c b := by
  rw [updRom, List.getD_eq_getElem?_getD, getElem?_crcRom, Option.getD_some, updTab]

/-- Settles O33: the listing is evaluated once, and an entry is the update of 0 by its index. -/
theorem listedTableIsTheFormula : Obligations.ListedTableIsTheFormula :=
  ⟨by rw [crcRom_eq_map, List.length_map, List.length_range], fun i => ⟨rfl, crcTable_eq_upd i⟩, getElem?_crcRom⟩

theorem updBy_eq_upd (impl : Impl) (c : Word) (b : Byte) : updBy impl c b = upd c b := by
  cases impl with
  | table => exact (updRom_eq_updTab c b).trans (updTab_eq_upd c b)
  | bitSerial => rfl

/-- Settles O34: by linearity the low byte goes through the table and the rest is shifted. -/
theorem tableUpdateEqualsBitSerialUpdate : Obligations.TableUpdateEqualsBitSerialUpdate :=
  ⟨fun c b => ⟨updTab_eq_upd c b, (updRom_eq_updTab c b).trans (updTab_eq_upd c b)⟩, updBy_eq_upd⟩

theorem crcRunBy_eq_crcRun (impl : Impl) (c : Word) (bs : List Byte) : crcRunBy impl c bs = crcRun c bs := by
  induction bs generalizing c with
  | nil => rfl
  | cons b bs ih => rw [crcRunBy_cons, updBy_eq_upd, ih, crcRun_cons]

theorem checksumBy_eq_checksum (impl : Impl) (bs : List Byte) : checksumBy impl bs = checksum bs := by
  rw [checksumBy, crcRunBy_eq_crcRun, checksum]

/-- Settles O37: the streaming law. -/
theorem runningValueStreams : Obligations.RunningValueStreams := crcRun_append

/-- The top byte of the shifted register is 0. -/
theorem extractLsb'_ushiftRight_eight (c : Word) : (c >>> 8).extractLsb' 24 8 = 0 := by
  apply BitVec.eq_of_toNat_eq
  have := c.isLt
  simp [Nat.shiftRight_eq_div_pow]
  omega

theorem topByte_upd (c : Word) (b : Byte) :
    (upd c b).extractLsb' 24 8 = (crcTable ((c ^^^ b.setWidth 32).setWidth 8)).extractLsb' 24 8 := by
  rw [← updTab_eq_upd, updTab, BitVec.extractLsb'_xor, extractLsb'_ushiftRight_eight]
  exact BitVec.xor_zero

theorem checksum_singleton (b : Byte) : checksum [b] = ~~~ (crcTable (0xFF ^^^ b) ^^^ 0x00FFFFFF) := by
  have hindex : (crcInitValue ^^^ b.setWidth 32).setWidth 8 = 0xFF ^^^ b := by
    rw [BitVec.setWidth_xor, BitVec.setWidth_setWidth_of_le _ (by decide), BitVec.setWidth_eq]
    rfl
  rw [checksum, crcRun_cons, crcRun_nil, ← updTab_eq_upd, updTab, hindex]
  rfl

/-- Settles O38: all from the linearity of the 1-bit step. -/
theorem updateIsLinear : Obligations.UpdateIsLinear := by
  refine ⟨fun c b => ⟨upd_eq_shift8 c b, ?_⟩, shift8_xor, fun c1 c2 b1 b2 => ?_, topByte_upd, checksum_singleton⟩
  · rw [upd_eq_shift8, shift8_eq_upd]
  · rw [upd_eq_shift8, upd_eq_shift8, ← shift8_xor]

/-! ### The shift register of a bit-serial build (10_state.md R24) -/

theorem byteBits_eq_map (b : Byte) : byteBits b = (List.range 8).map b.getLsbD := rfl

theorem clocks_succ (n : Nat) (e : BitSerial) : e.clocks (n + 1) = (e.clocks n).clock := by
  induction n generalizing e with
  | zero => rfl
  | succ n ih => exact ih e.clock

theorem clocks_add (m n : Nat) (e : BitSerial) : e.clocks (m + n) = (e.clocks m).clocks n := by
  induction n with
  | zero => rfl
  | succ n ih => rw [← Nat.add_assoc, clocks_succ, ih, clocks_succ]

/-- One more bit of the byte. -/
theorem take_succ_byteBits {n : Nat} (hn : n < 8) (b : Byte) :
    (byteBits b).take (n + 1) = (byteBits b).take n ++ [b.getLsbD n] := by
  have hget : (byteBits b)[n]? = some (b.getLsbD n) := by
    rw [byteBits_eq_map, List.getElem?_map, List.getElem?_range hn, Option.map_some]
  rw [List.take_add_one, hget, Option.toList_some]

/-- After `n` of the eight clocks: `n` bits consumed, the byte shifted, the counter down. -/
theorem clocks_load {n : Nat} (hn : n ≤ 8) (c : Word) (b : Byte) :
    BitSerial.clocks n { reg := c, shift := b, count := 8 } =
      { reg := ((byteBits b).take n).foldl bitstep c, shift := b >>> n, count := 8 - n } := by
  induction n with
  | zero => simp [BitSerial.clocks]
  | succ n ih =>
    have hcount : 8 - n = 8 - (n + 1) + 1 := by omega
    rw [clocks_succ, ih (by omega), take_succ_byteBits hn, List.foldl_append, hcount]
    simp only [BitSerial.clock, List.foldl_cons, List.foldl_nil, BitVec.getLsbD_ushiftRight, Nat.add_zero,
      BitVec.shiftRight_add]

/-- The accepting edge is the first of the eight clocks (log 14). -/
theorem clocks_accept (n : Nat) (c : Word) (b : Byte) : (BitSerial.accept c b).clocks n =
    BitSerial.clocks (n + 1) { reg := c, shift := b, count := 8 } := rfl

theorem count_accept (c : Word) (b : Byte) : (BitSerial.accept c b).count = 7 := rfl

/-- An engine that has finished holds. -/
theorem clocks_of_count_eq_zero {e : BitSerial} (h : e.count = 0) (n : Nat) : e.clocks n = e := by
  have hclock : e.clock = e := by simp only [BitSerial.clock, h]
  induction n with
  | zero => rfl
  | succ n ih => rw [clocks_succ, ih, hclock]

theorem clocks_accept_of_le {n : Nat} (hn : n ≤ 7) (c : Word) (b : Byte) :
    ((BitSerial.accept c b).clocks n).reg = ((byteBits b).take (n + 1)).foldl bitstep c ∧
      ((BitSerial.accept c b).clocks n).count = 7 - n := by
  rw [clocks_accept, clocks_load (Nat.succ_le_succ hn)]
  exact ⟨rfl, Nat.add_sub_add_right 7 1 n⟩

/-- After seven clocks the engine is done, and holds the update. -/
theorem clocks_accept_of_ge {n : Nat} (hn : 7 ≤ n) (c : Word) (b : Byte) :
    ((BitSerial.accept c b).clocks n).reg = upd c b ∧ ((BitSerial.accept c b).clocks n).count = 0 := by
  obtain ⟨m, rfl⟩ := Nat.exists_eq_add_of_le hn
  obtain ⟨hreg, hcount⟩ := clocks_accept_of_le (le_refl 7) c b
  rw [clocks_add, clocks_of_count_eq_zero hcount]
  exact ⟨hreg, hcount⟩

/-- Settles O35: `n` of the eight clocks consume `n` bits; the accepting edge of the port leaves LAT_BYTE less one busy
edges. -/
theorem eightClocksOfTheShiftRegisterAreOneUpdate : Obligations.EightClocksOfTheShiftRegisterAreOneUpdate := by
  refine fun c b => ⟨fun n hn => clocks_accept_of_le hn c b, fun n hn => clocks_accept_of_ge hn c b,
    fun k hready hwait _ => ?_⟩
  obtain ⟨T, hT⟩ := acceptWord_total (encode (.crcByte b)) k.regs
  refine ⟨_, clockEdge_accept (p := commandSample (encode (.crcByte b))) rfl (by rw [hwait]; rfl) rfl
    (cmdReady_iff.mp hready) hT _, ?_⟩
  rw [count_accept, commandSample, decode_encode]
  rfl

/-! ### Letters by their bits (41_type.md R70, R72) -/

theorem getElem_eq_decide {w : Nat} (b : BitVec w) {i : Nat} (hi : i < w) :
    b[i] = decide (b.toNat / 2 ^ i % 2 = 1) := by
  rw [← BitVec.getLsbD_eq_getElem hi, BitVec.getLsbD, Nat.testBit_eq_decide_div_mod_eq]

/-- Settles O45: bits 7, 6 and 5 and the five below them are a byte's value, whose ranges are compared. -/
theorem lettersByTheirBits : Obligations.LettersByTheirBits := by
  refine ⟨fun b => ?_, fun b hb => ?_⟩
  · have := b.isLt
    rw [isLetter_iff, getElem_eq_decide, getElem_eq_decide, decide_eq_false_iff_not, decide_eq_true_iff,
      BitVec.extractLsb'_toNat, Nat.shiftRight_zero]
    omega
  · have := b.isLt
    rw [isLetter_iff] at hb
    rw [getElem_eq_decide, decide_eq_false_iff_not]
    omega

/-! ### Words and their bytes (41_type.md R83, R84) -/

/-- A word is its four bytes, position 0 the most significant (20_memory.md R32). -/
theorem toNat_eq_bytes (w : Word) : w.toNat =
    (bytePos0 w).toNat * 2 ^ 24 + (bytePos1 w).toNat * 2 ^ 16 + (bytePos2 w).toNat * 2 ^ 8 + (bytePos3 w).toNat := by
  have := w.isLt
  simp only [bytePos0, bytePos1, bytePos2, bytePos3, BitVec.extractLsb'_toNat, Nat.shiftRight_eq_div_pow]
  omega

theorem eq_iff_typeBytes_eq (w w' : Word) : w = w' ↔ typeBytes w = typeBytes w' := by
  constructor
  · exact congrArg typeBytes
  · intro h
    simp only [typeBytes, List.cons.injEq, and_true] at h
    obtain ⟨h0, h1, h2, h3⟩ := h
    apply BitVec.eq_of_toNat_eq
    rw [toNat_eq_bytes w, toNat_eq_bytes w', h0, h1, h2, h3]

theorem lt_iff_lex_typeBytes (w w' : Word) : w < w' ↔ List.Lex (· < ·) (typeBytes w) (typeBytes w') := by
  have hlt : ∀ b : Byte, b.toNat < 2 ^ 8 := fun b => b.isLt
  have h1 := hlt (bytePos1 w)
  have h1' := hlt (bytePos1 w')
  have h2 := hlt (bytePos2 w)
  have h2' := hlt (bytePos2 w')
  have h3 := hlt (bytePos3 w)
  have h3' := hlt (bytePos3 w')
  simp only [typeBytes, List.cons_lex_cons_iff, List.not_lex_nil, and_false, or_false, BitVec.lt_def, ← BitVec.toNat_inj,
    toNat_eq_bytes w, toNat_eq_bytes w']
  omega

/-- Settles O48: a word's value is its bytes' in base 256. -/
theorem wordOrderIsByteOrder : Obligations.WordOrderIsByteOrder :=
  fun w w' => ⟨eq_iff_typeBytes_eq w w', lt_iff_lex_typeBytes w w'⟩

/-- Settles O49: a text of four characters is the word of their bytes, which are letters and so are held. -/
theorem fourLetterTextReadsBack : Obligations.FourLetterTextReadsBack := by
  intro a b c d s hx
  have htext := isTypeText_of_ascii fun x hmem => (hx x hmem).1
  have hvalid : validType (wordOfBytes (charByte a) (charByte b) (charByte c) (charByte d)) = true := by
    rw [validType_wordOfBytes]
    simpa using fun x hmem => (hx x hmem).2
  refine ⟨_, _, assemble_of_wellFormed htext, exec_typeLoad_of_valid hvalid s, rfl, ?_⟩
  rw [out_type_out, typeOut_of_valid rfl]
  exact typeBytes_wordOfBytes _ _ _ _

end Sys2Proof.Machine
end

section
/-! PROOFS of the families of the clocked port (70_reset_and_hazards.md R126 to R132): acceptance, the host's duty, the
return of `cmd_ready`, and that the clocked block refines the step whatever LAT_BYTE is. -/

namespace Sys2Proof.Machine

/-! ### One edge (70_reset_and_hazards.md R126, R128) -/

theorem cmdReady_eq_false_iff {k : ClockState} : k.cmdReady = false ↔ k.busy ≠ 0 := by
  simp [ClockState.cmdReady]

theorem outputs_of_not_cmdReady {k : ClockState} (h : k.cmdReady = false) : k.outputs = none :=
  if_neg (cmdReady_eq_false_iff.mp h)

/-- Settles O53: the outputs by the busy count. -/
theorem outputsAreSampledOnlyWhenReady : Obligations.OutputsAreSampledOnlyWhenReady :=
  fun _ => ⟨outputs_of_cmdReady, outputs_of_not_cmdReady⟩

/-- Without a word at the port the registers hold, busy or not. -/
theorem exists_clockEdge_of_not_valid {p : PortSample} {k : ClockState} (hw : keepsWord k.waiting p = true)
    (hr : p.rst = false) (hv : p.cmd_valid = false) (lat : Nat) :
    ∃ k', clockEdge lat p k = .next k' ∧ k'.regs = k.regs := by
  by_cases hk : k.busy = 0
  · exact ⟨_, clockEdge_idle hr hw hv hk lat, rfl⟩
  · exact ⟨_, clockEdge_busy hr hw hk lat, rfl⟩

/-- Settles O50: the cases of an edge. -/
theorem commandsAreAcceptedByTheHandshake : Obligations.CommandsAreAcceptedByTheHandshake := by
  refine ⟨fun lat p k hw hr hv hk => ?_, fun lat p k hw hr hk => clockEdge_busy hr hw (cmdReady_eq_false_iff.mp hk) lat,
    fun lat p k hw hr hv => exists_clockEdge_of_not_valid hw hr hv lat, fun lat p k hr => clockEdge_reset hr lat k,
    fun _ _ _ hport hr hv => step_of_idle hr hv hport⟩
  obtain ⟨T, hT⟩ := acceptWord_total p.cmd k.regs
  exact ⟨T, hT, clockEdge_accept hr hw hv (cmdReady_iff.mp hk) hT lat⟩

/-- A host that keeps its duty and presents no word has none waiting. -/
theorem waiting_eq_none_of_not_valid {waiting : Option CommandWord} {p : PortSample} (hr : p.rst = false)
    (hv : p.cmd_valid = false) (h : keepsWord waiting p = true) : waiting = none := by
  cases waiting with
  | none => rfl
  | some cw =>
    rw [keepsWord_some_iff, hr, hv] at h
    simp at h

/-- A host that presents the same sample again holds the word in it. -/
theorem keepsWord_waitingWord (p : PortSample) : keepsWord (waitingWord p) p = true := by
  cases hv : p.cmd_valid with
  | false => simp [waitingWord, hv]
  | true =>
    rw [waitingWord, if_pos hv, keepsWord_some_iff]
    exact .inr ⟨hv, rfl⟩

/-- A reset edge breaks no duty (log 15). -/
theorem rst_eq_false_of_not_keepsWord {waiting : Option CommandWord} {p : PortSample}
    (h : keepsWord waiting p = false) : p.rst = false := by
  cases waiting with
  | none => exact absurd h (by simp)
  | some cw =>
    rw [← Bool.not_eq_true, keepsWord_some_iff, not_or, Bool.not_eq_true] at h
    exact h.1

/-! ### The duty and the effective samples, edge by edge -/

section
variable {lat : Nat} {p : PortSample} {waiting : Option CommandWord} {ps : List PortSample}

theorem keepsDuty_reset (hr : p.rst = true) (busy : Nat) :
    keepsDuty lat busy waiting (p :: ps) = keepsDuty lat 0 none ps := by
  simp only [keepsDuty, if_pos hr]

theorem keepsDuty_of_not_keepsWord (hw : keepsWord waiting p = false) (busy : Nat) :
    keepsDuty lat busy waiting (p :: ps) = false := by
  simp [keepsDuty, rst_eq_false_of_not_keepsWord hw, hw]

theorem keepsDuty_accept (hr : p.rst = false) (hw : keepsWord waiting p = true) (hv : p.cmd_valid = true) :
    keepsDuty lat 0 waiting (p :: ps) = keepsDuty lat (latency lat (decode p.cmd) - 1) none ps := by
  simp [keepsDuty, hr, hw, hv]

theorem keepsDuty_idle (hr : p.rst = false) (hw : keepsWord waiting p = true) (hv : p.cmd_valid = false) :
    keepsDuty lat 0 waiting (p :: ps) = keepsDuty lat 0 none ps := by
  simp [keepsDuty, hr, hw, hv]

theorem keepsDuty_busy (hr : p.rst = false) (hw : keepsWord waiting p = true) (n : Nat) :
    keepsDuty lat (n + 1) waiting (p :: ps) = keepsDuty lat n (waitingWord p) ps := by
  simp [keepsDuty, hr, hw]

theorem keepsWord_of_keepsDuty {busy : Nat} (h : keepsDuty lat busy waiting (p :: ps) = true) :
    keepsWord waiting p = true := by
  by_contra hw
  rw [keepsDuty_of_not_keepsWord (Bool.not_eq_true _ ▸ hw)] at h
  exact Bool.false_ne_true h

theorem effectiveSamples_reset (hr : p.rst = true) (busy : Nat) :
    effectiveSamples lat busy (p :: ps) = p :: effectiveSamples lat 0 ps := by
  simp only [effectiveSamples, if_pos hr]

theorem effectiveSamples_accept (hr : p.rst = false) (hv : p.cmd_valid = true) :
    effectiveSamples lat 0 (p :: ps) = p :: effectiveSamples lat (latency lat (decode p.cmd) - 1) ps := by
  simp [effectiveSamples, hr, hv]

theorem effectiveSamples_idle (hr : p.rst = false) (hv : p.cmd_valid = false) :
    effectiveSamples lat 0 (p :: ps) = p :: effectiveSamples lat 0 ps := by
  simp [effectiveSamples, hr, hv]

theorem effectiveSamples_busy (hr : p.rst = false) (n : Nat) :
    effectiveSamples lat (n + 1) (p :: ps) = effectiveSamples lat n ps := by
  simp [effectiveSamples, hr]

end

/-- What an edge from `k` to `k'` that takes `p` is to the machine: a step on the sample, which is then an effective
one, or, at a busy block, no step and the same registers. -/
def EdgeRefines (lat : Nat) (p : PortSample) (ps : List PortSample) (k k' : ClockState) : Prop :=
  (effectiveSamples lat k.busy (p :: ps) = p :: effectiveSamples lat k'.busy ps ∧
      ∀ rest, step { toRegs := k.regs, port := p :: rest } = .next { toRegs := k'.regs, port := rest }) ∨
    (effectiveSamples lat k.busy (p :: ps) = effectiveSamples lat k'.busy ps ∧ k'.regs = k.regs)

/-- Everything one edge does under a host that holds its word: the duty goes on from the next clock state, and the edge
is a step or none. -/
theorem exists_clockEdge_of_keepsWord {k : ClockState} {p : PortSample} (hw : keepsWord k.waiting p = true) (lat : Nat)
    (ps : List PortSample) : ∃ k', clockEdge lat p k = .next k' ∧
      keepsDuty lat k.busy k.waiting (p :: ps) = keepsDuty lat k'.busy k'.waiting ps ∧ EdgeRefines lat p ps k k' := by
  obtain ⟨S, busy, waiting⟩ := k
  cases hr : p.rst with
  | true =>
    exact ⟨_, clockEdge_reset hr lat _, keepsDuty_reset hr busy,
      .inl ⟨effectiveSamples_reset hr busy, fun _ => step_of_reset hr rfl⟩⟩
  | false =>
    cases busy with
    | succ n =>
      exact ⟨_, clockEdge_busy hr hw (Nat.succ_ne_zero n) lat, keepsDuty_busy hr hw n,
        .inr ⟨effectiveSamples_busy hr n, rfl⟩⟩
    | zero =>
      cases hv : p.cmd_valid with
      | true =>
        obtain ⟨T, hT⟩ := acceptWord_total p.cmd S
        exact ⟨_, clockEdge_accept hr hw hv rfl hT lat, keepsDuty_accept hr hw hv,
          .inl ⟨effectiveSamples_accept hr hv, step_of_acceptWord hr hv hT⟩⟩
      | false =>
        obtain rfl : waiting = none := waiting_eq_none_of_not_valid hr hv hw
        exact ⟨_, clockEdge_idle hr hw hv rfl lat, keepsDuty_idle hr hw hv,
          .inl ⟨effectiveSamples_idle hr hv, fun _ => step_of_idle hr hv rfl⟩⟩

/-! ### A sequence of edges -/

/-- Under a host that keeps its duty the clocked block completes, with the registers of the steps on the samples that
have an effect. -/
theorem exists_clockRun_of_keepsDuty {lat : Nat} {k : ClockState} {ps : List PortSample}
    (h : keepsDuty lat k.busy k.waiting ps = true) :
    ∃ k', clockRun lat k ps = .next k' ∧
      Host.Core.run core (effectiveSamples lat k.busy ps).length
        ({ toRegs := k.regs, port := effectiveSamples lat k.busy ps } : State) =
          .next ({ toRegs := k'.regs, port := [] } : State) := by
  induction ps generalizing k with
  | nil => exact ⟨k, rfl, rfl⟩
  | cons p ps ih =>
    obtain ⟨m, hedge, hduty, hrefines⟩ := exists_clockEdge_of_keepsWord (keepsWord_of_keepsDuty h) lat ps
    obtain ⟨k', hclock, hrun⟩ := ih (hduty ▸ h)
    refine ⟨k', (clockRun_cons_of_next ps hedge).trans hclock, ?_⟩
    obtain ⟨heff, hstep⟩ | ⟨heff, hregs⟩ := hrefines
    · rw [heff]
      exact (run_succ_of_next _ (hstep _)).trans hrun
    · rwa [heff, ← hregs]

/-- Settles O55: edge by edge, an effect is a step and a busy edge is none. -/
theorem clockedBlockRefinesTheStep : Obligations.ClockedBlockRefinesTheStep :=
  fun _ _ _ => exists_clockRun_of_keepsDuty

/-- A host that breaks its duty is refused at the edge where it does. -/
theorem clockRun_of_not_keepsDuty {lat : Nat} {k : ClockState} {ps : List PortSample}
    (h : keepsDuty lat k.busy k.waiting ps = false) : clockRun lat k ps = .refused .wordNotHeld := by
  induction ps generalizing k with
  | nil => exact absurd h (by simp [keepsDuty])
  | cons p ps ih =>
    cases hw : keepsWord k.waiting p with
    | false => simp only [clockRun, clockEdge_not_held (rst_eq_false_of_not_keepsWord hw) hw]
    | true =>
      obtain ⟨m, hedge, hduty, -⟩ := exists_clockEdge_of_keepsWord hw lat ps
      rw [clockRun_cons_of_next ps hedge]
      exact ih (hduty ▸ h)

/-- Changing or withdrawing a word that waits breaks the duty. -/
theorem not_keepsWord_of_dropped {cw : CommandWord} {p : PortSample} (hr : p.rst = false)
    (h : p.cmd_valid = false ∨ p.cmd ≠ cw) : keepsWord (some cw) p = false := by
  rw [← Bool.not_eq_true, keepsWord_some_iff]
  rintro (hrst | ⟨hv, hcmd⟩)
  · exact absurd hrst (Bool.eq_false_iff.mp hr)
  · exact h.elim (absurd hv <| Bool.eq_false_iff.mp ·) (absurd hcmd)

/-- Settles O51: the duty and the clocked run fail at the same edge. -/
theorem hostsThatDropAWaitingWordAreRefused : Obligations.HostsThatDropAWaitingWordAreRefused := by
  refine ⟨fun lat k ps => ⟨fun h => ?_, clockRun_of_not_keepsDuty⟩, fun _ _ => keepsWord_some_iff,
    fun lat n cw p S hr hdrop => clockRun_of_not_keepsDuty ?_⟩
  · obtain ⟨k', hrun, -⟩ := exists_clockRun_of_keepsDuty h
    exact ⟨k', hrun⟩
  · rw [keepsDuty_busy rfl rfl]
    exact keepsDuty_of_not_keepsWord (not_keepsWord_of_dropped hr hdrop) n

/-! ### The busy edges of a command (70_reset_and_hazards.md R127, R131) -/

theorem latency_le {lat : Nat} (hlat : 0 < lat) (i : Instr) : latency lat i ≤ 4 * lat := by
  have h1 : 1 ≤ 4 * lat := by omega
  cases i with
  | crcByte => exact Nat.le_mul_of_pos_left lat (by decide)
  | crcType => exact le_refl _
  | _ => exact h1

/-- After as many edges without reset as the block is busy for, it is ready, its registers the same; and what waits is
what waited or a word presented meanwhile. -/
theorem exists_clockRun_of_busy {lat : Nat} {S : Regs} {waiting : Option CommandWord} {ps : List PortSample}
    (hr : ∀ p ∈ ps, p.rst = false) (hduty : keepsDuty lat ps.length waiting ps = true) :
    ∃ waiting', clockRun lat { regs := S, busy := ps.length, waiting := waiting } ps =
        .next { regs := S, busy := 0, waiting := waiting' } ∧
      (waiting' = waiting ∨ ∃ p ∈ ps, waiting' = waitingWord p) := by
  induction ps generalizing waiting with
  | nil => exact ⟨waiting, rfl, .inl rfl⟩
  | cons p ps ih =>
    have hw := keepsWord_of_keepsDuty hduty
    have hp := hr p List.mem_cons_self
    rw [List.length_cons, keepsDuty_busy hp hw] at hduty
    obtain ⟨waiting', hrun, hfrom⟩ := ih (fun q hq => hr q (List.mem_cons_of_mem p hq)) hduty
    refine ⟨waiting', (clockRun_cons_of_next ps (clockEdge_busy hp hw (Nat.succ_ne_zero _) lat)).trans hrun, .inr ?_⟩
    obtain hfrom | ⟨q, hq, hfrom⟩ := hfrom
    · exact ⟨p, List.mem_cons_self, hfrom⟩
    · exact ⟨q, List.mem_cons_of_mem p hq, hfrom⟩

/-- The whole of a command: its accepting edge and its busy ones. -/
theorem exists_clockRun_of_command {lat : Nat} {k : ClockState} {cw : CommandWord} {ps : List PortSample} {T : Regs}
    (hk : k.cmdReady = true) (hw : k.waiting = none ∨ k.waiting = some cw) (hT : acceptWord cw k.regs = .next T)
    (hr : ∀ p ∈ ps, p.rst = false) (hlen : ps.length = latency lat (decode cw) - 1)
    (hduty : keepsDuty lat ps.length none ps = true) :
    ∃ waiting', clockRun lat k (commandSample cw :: ps) = .next { regs := T, busy := 0, waiting := waiting' } ∧
      (waiting' = none ∨ ∃ p ∈ ps, waiting' = waitingWord p) := by
  have hheld : keepsWord k.waiting (commandSample cw) = true := by
    obtain hw | hw := hw
    · rw [hw, keepsWord_none]
    · rw [hw]
      exact keepsWord_waitingWord (commandSample cw)
  have hedge := clockEdge_accept (p := commandSample cw) rfl hheld rfl (cmdReady_iff.mp hk) hT lat
  rw [clockRun_cons_of_next ps hedge, show (commandSample cw).cmd = cw from rfl, ← hlen]
  exact exists_clockRun_of_busy hr hduty

/-- Settles O52: the busy count is the command's cycles less one and falls by one an edge. -/
theorem cmdReadyReturns : Obligations.CmdReadyReturns := by
  intro lat hlat k cw ps hk hw hr hlen hduty
  obtain ⟨T, hT⟩ := acceptWord_total cw k.regs
  have hbusy : ps.length = latency lat (decode cw) - 1 := by omega
  rw [← hbusy] at hduty
  obtain ⟨waiting', hrun, -⟩ := exists_clockRun_of_command hk hw hT hr hbusy hduty
  exact ⟨latency_le hlat _, _, hrun, rfl, hT⟩

/-! ### A host that waits for `cmd_ready` (40_crc.md R66 (d)) -/

/-- A sequence of edges in two parts. -/
theorem clockRun_append_of_next {lat : Nat} {k k' : ClockState} {ps : List PortSample} (qs : List PortSample)
    (h : clockRun lat k ps = .next k') : clockRun lat k (ps ++ qs) = clockRun lat k' qs := by
  induction ps generalizing k with
  | nil =>
    injection h with h
    exact h ▸ rfl
  | cons p ps ih =>
    cases hedge : clockEdge lat p k with
    | next m =>
      rw [clockRun_cons_of_next _ hedge] at h
      rw [List.cons_append, clockRun_cons_of_next _ hedge, ih h]
    | fault r => nomatch r
    | refused r => simp [clockRun, hedge] at h

/-- A host that presents one sample at every busy edge keeps its duty. -/
theorem keepsDuty_replicate {lat n : Nat} {waiting : Option CommandWord} {p : PortSample} (hr : p.rst = false)
    (hw : keepsWord waiting p = true) : keepsDuty lat n waiting (List.replicate n p) = true := by
  induction n generalizing waiting with
  | zero => rfl
  | succ n ih =>
    rw [List.replicate_succ, keepsDuty_busy hr hw]
    exact ih (keepsWord_waitingWord p)

theorem rst_meanwhile (early : Bool) (cws : List CommandWord) : (meanwhile early cws).rst = false := by
  cases early <;> cases cws <;> rfl

/-- What such a host may have waiting is its next word. -/
theorem waitingWord_meanwhile (early : Bool) (cws : List CommandWord) :
    waitingWord (meanwhile early cws) = none ∨ waitingWord (meanwhile early cws) = cws.head? := by
  cases early with
  | false => exact .inl rfl
  | true =>
    cases cws with
    | nil => exact .inl rfl
    | cons cw cws => exact .inr rfl

/-- Word after word, the block is ready again with the registers of `runs`; a word that waits before is the first of the
list. This holds at LAT_BYTE 0 too, where a command has no busy edge. -/
theorem exists_clockRun_hostEdges (lat : Nat) (early : Bool) (cws : List CommandWord) {k : ClockState}
    (hk : k.cmdReady = true) (hw : k.waiting = none ∨ k.waiting = cws.head?) :
    ∃ k', clockRun lat k (hostEdges lat early cws) = .next k' ∧ k'.cmdReady = true ∧
      runs k.regs cws = .next k'.regs := by
  induction cws generalizing k with
  | nil => exact ⟨k, rfl, hk, rfl⟩
  | cons cw cws ih =>
    obtain ⟨T, hT⟩ := acceptWord_total cw k.regs
    obtain ⟨waiting', hrun, hfrom⟩ := exists_clockRun_of_command (lat := lat)
      (ps := List.replicate (latency lat (decode cw) - 1) (meanwhile early cws)) hk hw hT
      (fun p hp => List.eq_of_mem_replicate hp ▸ rst_meanwhile early cws) List.length_replicate
      (by rw [List.length_replicate]; exact keepsDuty_replicate (rst_meanwhile early cws) (keepsWord_none _))
    have hnext : waiting' = none ∨ waiting' = cws.head? := by
      obtain hnone | ⟨p, hp, hword⟩ := hfrom
      · exact .inl hnone
      · rw [hword, List.eq_of_mem_replicate hp]
        exact waitingWord_meanwhile early cws
    obtain ⟨k', hrest, hready, hruns⟩ := ih (k := { regs := T, busy := 0, waiting := waiting' }) rfl hnext
    exact ⟨k', (clockRun_append_of_next (hostEdges lat early cws) hrun).trans hrest, hready,
      (runs_cons_of_next cws hT).trans hruns⟩

/-- Settles O54: by induction over the words, each with its busy edges. -/
theorem resultsDoNotDependOnLatency : Obligations.ResultsDoNotDependOnLatency :=
  fun lat _ early cws _ hk hw => exists_clockRun_hostEdges lat early cws hk (.inl hw)

/-- Settles O56: the update is the same function in either style; two hosts that wait get the outputs of the one run;
a `NOP` is a step to the same registers; and without `CRC_TYPE` no command reads the type unit for `crc_r`. -/
theorem resultsDependOnTheBytesAlone : Obligations.ResultsDependOnTheBytesAlone := by
  refine ⟨fun impl c bs => ⟨crcRunBy_eq_crcRun impl c bs, checksumBy_eq_checksum impl bs⟩,
    fun lat lat' _ _ early early' S cws => ?_, fun S is => ?_, fun S S' is hc his => ?_⟩
  · obtain ⟨k, hrun, hready, hregs⟩ := exists_clockRun_hostEdges lat early cws
      (k := { regs := S, busy := 0, waiting := none }) rfl (.inl rfl)
    obtain ⟨k', hrun', hready', hregs'⟩ := exists_clockRun_hostEdges lat' early' cws
      (k := { regs := S, busy := 0, waiting := none }) rfl (.inl rfl)
    have hsame : k.regs = k'.regs := by
      rw [hregs] at hregs'
      injection hregs'
    refine ⟨k, k', hrun, hrun', ?_, _, outputs_of_cmdReady hready⟩
    rw [outputs_of_cmdReady hready, outputs_of_cmdReady hready', hsame]
  · obtain ⟨T, hT⟩ := runInstrs_total S is
    exact ⟨T, hT, (runInstrs_withoutNops S is).trans hT⟩
  · obtain ⟨T, hT⟩ := runInstrs_total S is
    obtain ⟨T', hT'⟩ := runInstrs_total S' is
    refine ⟨T, T', hT, hT', ?_⟩
    rw [out_crc_out, out_crc_out, crc_r_eq_of_runInstrs_of_no_crcType his hc hT hT']

end Sys2Proof.Machine
end

section
/-! PROOFS of the families of the assembler (30_encoding.md R46, R47, log 12): byte operands in every form, rejected
lines, comments. -/

namespace Sys2Proof.Machine

/-! ### Byte operands of the pseudo-commands (30_encoding.md R47) -/

theorem assemble_of_not_wellFormed {l : AsmLine} (h : l.wellFormed = false) : assemble l = none :=
  if_neg (Bool.eq_false_iff.mp h)

theorem flatMap_operandBytes_text (cs : List Char) : [AsmOperand.text cs].flatMap operandBytes = cs.map charByte := by
  simp [operandBytes]

/-- `CHECKSUM` of a byte sequence in any form leaves the checksum of its bytes. -/
theorem checksum_of_isByteSequence {ops : List AsmOperand} (h : isByteSequence ops = true) (S : Regs) :
    ∃ is T, assemble { mnemonic := .checksum, operands := ops } = some is ∧
      is = .crcInit :: (ops.flatMap operandBytes).map .crcByte ∧ runInstrs S is = .next T ∧
      T.out.crc_out = checksum (ops.flatMap operandBytes) := by
  obtain ⟨T, hrun, hout⟩ := crc_out_of_checksum S (ops.flatMap operandBytes)
  exact ⟨_, T, assemble_checksum h, rfl, hrun, hout⟩

/-- `CHUNK_CRC` of a text of four characters and a byte sequence in any form; with letters, their checksum. -/
theorem chunkCrc_of_isByteSequence {a b c d : Char} (hascii : ∀ x ∈ [a, b, c, d], asciiChar x = true)
    {ops : List AsmOperand} (h : isByteSequence ops = true) (S : Regs) :
    ∃ is T, assemble { mnemonic := .chunkCrc, operands := .text [a, b, c, d] :: ops } = some is ∧
      is = .typeLoad (wordOfBytes (charByte a) (charByte b) (charByte c) (charByte d)) :: .crcInit :: .crcType ::
        (ops.flatMap operandBytes).map .crcByte ∧
      runInstrs S is = .next T ∧
      ((∀ x ∈ [a, b, c, d], isLetter (charByte x) = true) → T.out.crc_out =
        checksum (charByte a :: charByte b :: charByte c :: charByte d :: ops.flatMap operandBytes)) := by
  obtain ⟨T, hrun, hout⟩ := crc_out_of_chunkCrc S
    (wordOfBytes (charByte a) (charByte b) (charByte c) (charByte d)) (ops.flatMap operandBytes)
  refine ⟨_, T, assemble_chunkCrc (isTypeText_of_ascii hascii) h, rfl, hrun, fun hletters => ?_⟩
  rw [hout (by rw [validType_wordOfBytes]; simpa using hletters), typeBytes_wordOfBytes]
  rfl

/-- A text is a byte sequence only alone. -/
theorem not_isByteSequence_of_text_mem {cs : List Char} {ops : List AsmOperand} (hmem : .text cs ∈ ops)
    (hlen : ops.length ≠ 1) : isByteSequence ops = false := by
  unfold isByteSequence
  split
  · exact absurd rfl hlen
  · exact List.all_eq_false.mpr ⟨_, hmem, by simp [AsmOperand.isByte]⟩

/-- Each of the three pseudo-commands rejects operands that are no byte sequence. -/
theorem assemble_of_not_isByteSequence {ops : List AsmOperand} (h : isByteSequence ops = false) (t : AsmOperand) :
    assemble { mnemonic := .crcBytes, operands := ops } = none ∧
    assemble { mnemonic := .checksum, operands := ops } = none ∧
    assemble { mnemonic := .chunkCrc, operands := t :: ops } = none :=
  ⟨assemble_of_not_wellFormed h, assemble_of_not_wellFormed h,
    assemble_of_not_wellFormed (Bool.and_eq_false_imp.mpr fun _ => h)⟩

/-- Settles O58: byte operands and one text are the two forms of a byte sequence, and each command expands any. -/
theorem pseudoCommandsTakeCharactersAndTexts : Obligations.PseudoCommandsTakeCharactersAndTexts := by
  refine ⟨fun _ => ⟨rfl, rfl⟩, fun _ => ⟨rfl, rfl⟩, fun ops S hbytes => ?_, fun cs S hcs => ?_,
    fun a b c d ops ds S hascii hops => ?_, fun cs type ops hmem hlen => ?_⟩
  · have hseq := isByteSequence_of_isByte hbytes
    exact ⟨assemble_crcBytes hseq, checksum_of_isByteSequence hseq S⟩
  · rw [← flatMap_operandBytes_text]
    exact checksum_of_isByteSequence (isByteSequence_text hcs) S
  · obtain ⟨hbytes, rfl⟩ | ⟨cs, hcs, rfl, rfl⟩ := hops
    · exact chunkCrc_of_isByteSequence hascii (isByteSequence_of_isByte hbytes) S
    · rw [← flatMap_operandBytes_text]
      exact chunkCrc_of_isByteSequence hascii (isByteSequence_text hcs) S
  · exact assemble_of_not_isByteSequence (not_isByteSequence_of_text_mem hmem hlen) _

/-! ### Operands of one command (30_encoding.md R46) -/

/-- A line assembles by whether it is well-formed. -/
theorem assemble_eq_ite {l : AsmLine} {p : Prop} [Decidable p] (h : l.wellFormed = decide p) :
    assemble l = if p then some (expandLine l) else none := by
  simp only [assemble, h, decide_eq_true_eq]

/-! ### Comments (30_encoding.md R46) -/

/-- A line that reads as tokens reads as the same tokens when a comment follows. -/
theorem lex_append_comment {line : List Char} (comment : List Char) {mode : LexMode} {ts : List Token}
    (h : lex mode line = some ts) : lex mode (line ++ ';' :: comment) = some ts := by
  induction line generalizing mode ts with
  | nil =>
    cases mode with
    | between => exact h
    | word acc => exact h
    | text acc | quote | quoted c => exact absurd h (by simp [lex])
  | cons c cs ih =>
    have token : ∀ t ts, (lex .between cs).map (t :: ·) = some ts →
        (lex .between (cs ++ ';' :: comment)).map (t :: ·) = some ts := by
      intro t ts h
      obtain ⟨rest, hrest, hts⟩ := Option.map_eq_some_iff.mp h
      rw [ih hrest, Option.map_some, hts]
    cases mode with
    | between =>
      simp only [List.cons_append, lex] at h ⊢
      split_ifs at h ⊢
      · exact h
      · exact ih h
      · exact ih h
      · exact ih h
      · exact ih h
    | word acc =>
      simp only [List.cons_append, lex] at h ⊢
      split_ifs at h ⊢
      · exact h
      · exact token _ _ h
      · exact ih h
    | text acc =>
      simp only [List.cons_append, lex] at h ⊢
      split_ifs at h ⊢
      · exact token _ _ h
      · exact ih h
    | quote => exact ih h
    | quoted d =>
      simp only [List.cons_append, lex] at h ⊢
      split_ifs at h ⊢
      exact token _ _ h

/-- Settles O59: a line of one operand assembles within the operand's range, and a comment changes no token. -/
theorem assemblerOperandsAndComments : Obligations.AssemblerOperandsAndComments := by
  refine ⟨fun n => assemble_eq_ite rfl, fun n => assemble_eq_ite rfl, fun _ => rfl, fun _ _ => ⟨rfl, rfl, rfl⟩,
    fun line comment ts h => ?_⟩
  simp only [assembleText, h, lex_append_comment comment h]

end Sys2Proof.Machine
end
